-- ==== Sys2Proof/Word.lean ====
section
/-! DEFINITION. The word types of the block: XLEN = 32, OPW = 16 (spec 00 R5), and the byte of memory. -/

namespace Sys2Proof

/-- XLEN: the width of D, A, PC, USP, SSP, VBR (spec 00 R5, 10 R10 to R13). -/
abbrev Word := BitVec 32

/-- OPW: the width of an opcode word and of the packed status word (spec 00 R5, 10 R18). -/
abbrev Half := BitVec 16

/-- The smallest addressable unit of memory (spec 20 R40). -/
abbrev Byte := BitVec 8

end Sys2Proof
end

