-- ==== Sys2Proof/Config.lean ====
section
/-! DEFINITION. The parameters of the block (spec 00 R5): what one platform fixes and the spec leaves OPEN. A machine
carries its Config in its state and no step changes it, so a claim about every state is a claim about every platform. At
the end, the free value. -/

namespace Sys2Proof

/-- The opaque event record a port's caller fills (spec 42 R129; log 18). -/
abbrev EventRecord := Nat

/-- How a memory access is rejected: bus error or address error (spec 00 section 7, `kind`). -/
inductive FaultKind where
  | bus
  | address
  deriving DecidableEq, Repr

/-- The direction of an access (spec 30 R70). -/
inductive Dir where
  | read
  | write
  deriving DecidableEq, Repr

/-- The size of an access in bytes: 1, 2 or 4 (spec 30 R70). -/
inductive AccessSize where
  | one
  | two
  | four
  deriving DecidableEq, Repr

/-- SC_EVAL: how the "Else" of a special-condition pass is read (spec 00 R5, 41 R100 and R115). -/
inductive ScEval where
  | sequential
  | chain
  deriving DecidableEq, Repr

/-- A range of mapped addresses: `size` bytes from `base`, wrapping at the top of the address space. -/
structure Region where
  base : Word
  size : Nat
  deriving DecidableEq, Repr

/-- Accesses in one direction that start in a range and that the memory collaborator rejects for a reason of its own
(a permission or instrumentation check); the full-access variant is not subject to it (spec 20 R50). -/
structure Rejection where
  range : Region
  dir : Dir
  /-- the size rejected; none for every size -/
  size : Option AccessSize
  kind : FaultKind
  deriving DecidableEq, Repr

/-- MemPolicy (spec 00 R5, 20 R43): when the memory collaborator signals bus error or address error.
Its shape is PRESUMED, and which of its conditions wins where several apply a DESIGN CHOICE, log 20. -/
structure MemPolicy where
  /-- the mapped addresses; an access to any other byte is a bus error -/
  mapped : List Region
  /-- whether a 16- or 32-bit access at an odd address is an address error -/
  checkOdd : Bool
  /-- further rejected accesses; the first that applies wins, and it wins over the two conditions above (log 20) -/
  rejections : List Rejection
  /-- whether the full-access variant is subject to the odd-address check (20 R43, R50) -/
  fullOdd : Bool
  /-- whether a full-access read of an unmapped byte is a bus error (20 R50: "by default it can") -/
  fullUnmapped : Bool
  deriving DecidableEq, Repr

/-- The OPEN parameters of spec 00 R5. -/
structure Config where
  /-- ROM_BASE, "the configured ROM base" -/
  romBase : Word
  /-- SLOW_MASK is 2^slowBits - 1 -/
  slowBits : Nat
  /-- IDLE_TICK_CYCLES -/
  idleTick : Word
  /-- what `interruptVectorBase()` answers when no other answer is prepared -/
  vectorBase : Int
  /-- SC_EVAL -/
  scEval : ScEval
  /-- MemPolicy -/
  policy : MemPolicy
  /-- the cost returned by the default handlers of RTS, TRAPV, LINK and JSR, which the spec leaves to the handler
  (spec 70 R219; log 13) -/
  externalCost : Word
  deriving DecidableEq, Repr

/-- The whole 32-bit space, the odd-address check of decision D32 and nothing else (DESIGN CHOICE, log 4). -/
def MemPolicy.wholeSpace : MemPolicy :=
  { mapped := [{ base := 0, size := 4294967296 }], checkOdd := true, rejections := []
    fullOdd := true, fullUnmapped := true }

/-- No access faults (used by `withFetchWord` only where the machine's own policy rejects the fetch). -/
def MemPolicy.permissive : MemPolicy :=
  { mapped := [{ base := 0, size := 4294967296 }], checkOdd := false, rejections := []
    fullOdd := false, fullUnmapped := false }

/-- The configuration of `State.reset` (DESIGN CHOICE, log 4): the defaults of spec 95 sections 2 and 3.1 where that file
names one (base 24, SC_EVAL sequential, SLOW_MASK 0, IDLE_TICK_CYCLES 1, default MemPolicy), ROM_BASE as in its TV40. -/
def Config.initial : Config :=
  { romBase := 0x00010000
    slowBits := 0
    idleTick := 1
    vectorBase := 24
    scEval := .sequential
    policy := MemPolicy.wholeSpace
    externalCost := 4 }

/-- FREE VALUE (log 18): what stands in the event record that the caller of an event port fills (spec 42 R129: "one opaque
record"), where the caller is the block itself or a handler of the default OpTable. It is applied to the number of calls
made to the environment so far, so that each record is a value of its own. -/
opaque Config.freeEventRecord : Nat → EventRecord

end Sys2Proof
end

