-- ==== Sys2Proof/Syntax.lean ====
section
/-! DEFINITION. The instructions of the block: one constructor for each row of spec/opcode_table.json (14 opcode-word rows
and 32 operation rows, spec 30 R74), and the operand types they take. -/

namespace Sys2Proof

/-- The seven special flags (spec 10 R22, 30 R65). -/
inductive Flag where
  | stop
  | trace
  | dotrace
  | int
  | doint
  | brk
  | eoc
  deriving DecidableEq, Repr

/-- The eight hook kinds (spec 42 R120). -/
inductive HookKind where
  | exception
  | jsr
  | jsrInd
  | link
  | rte
  | rts
  | newPC
  | newSP
  deriving DecidableEq, Repr

/-- A callback handle; two handles are equal exactly when they denote the same callback (spec 42 R120). -/
abbrev Callback := Nat

/-- A session file, by number (spec 43 R146; log 24). -/
abbrev FileId := Nat

/-- The record of `getRegisters` and `setRegisters` (spec 43 R144): the register file of spec 10 sections 1 to 3 with the
packed word and the fields, and the stopped bit. -/
structure RegFile where
  /-- D[0..7] (R10) -/
  d : Vector Word 8
  /-- A[0..7]; A[7] is the active stack pointer (R11) -/
  a : Vector Word 8
  /-- PC (R13) -/
  pc : Word
  /-- the user stack-pointer shadow (R12) -/
  usp : Word
  /-- the supervisor stack-pointer shadow (R12) -/
  ssp : Word
  /-- the packed status word, a cache of the fields (R18) -/
  sr : Half
  /-- trace enable (R15) -/
  t1 : Bool
  /-- stored only (R15) -/
  t0 : Bool
  /-- supervisor mode (R16) -/
  s : Bool
  /-- master bit, stored only (R16) -/
  m : Bool
  /-- IMASK (R17) -/
  imask : BitVec 3
  /-- condition code X (R14) -/
  x : Bool
  /-- condition code N (R14) -/
  n : Bool
  /-- condition code Z (R14) -/
  z : Bool
  /-- condition code V (R14) -/
  v : Bool
  /-- condition code C (R14) -/
  c : Bool
  /-- VBR (R19) -/
  vbr : Word
  /-- SFC (R20) -/
  sfc : Word
  /-- DFC (R20) -/
  dfc : Word
  /-- FPCR (R21) -/
  fpcr : Word
  /-- FPSR (R21) -/
  fpsr : Word
  /-- FPIAR (R21) -/
  fpiar : Word
  /-- STOPPED (R23) -/
  stopped : Bool
  deriving DecidableEq, Repr

/-- One constructor for each row of spec/opcode_table.json. -/
inductive Instr where
  /-- DISPATCH: any opcode word, through its OpTable slot (40 R84) -/
  | dispatch (op : Half)
  /-- ILLEGAL_LINE_A: a word 0xAxxx whose slot is the illegal handler (40 R89) -/
  | illegalLineA (rest : BitVec 12)
  /-- ILLEGAL_LINE_F: a word 0xFxxx whose slot is the illegal handler (40 R89) -/
  | illegalLineF (rest : BitVec 12)
  /-- ILLEGAL_OTHER: any other word whose slot is the illegal handler (40 R89) -/
  | illegalOther (line : BitVec 4) (rest : BitVec 12)
  /-- NOP 0x4E71 (30 R77) -/
  | nop
  /-- STOP 0x4E72, its immediate an extension word (60 R181) -/
  | stop
  /-- RTE 0x4E73 (60 R180) -/
  | rte
  /-- RTS 0x4E75 (40 R95) -/
  | rts
  /-- TRAPV 0x4E76 (60 R173) -/
  | trapv
  /-- TRAP #n 0x4E40 + n (60 R173) -/
  | trap (n : BitVec 4)
  /-- LINK An 0x4E50 + n, its displacement an extension word (40 R93) -/
  | link (an : BitVec 3)
  /-- JSR ea 0x4E80 + ea (40 R91) -/
  | jsr (eaMode : BitVec 3) (eaReg : BitVec 3)
  /-- ILLEGAL 0x4AFC (40 R89) -/
  | illegal
  /-- MOVE.W (xxx).L, D0 0x3039, its address in two extension words (95 section 3.1) -/
  | moveWAbsLD0
  /-- reset(hardwareReset) (70 R200) -/
  | reset (hardwareReset : Bool)
  /-- execute() (40 R80) -/
  | execute
  /-- ExecuteSpecial() (41 R100) -/
  | executeSpecial
  /-- ExecuteStoppedLoop() (41 R109) -/
  | executeStoppedLoop
  /-- BreakCheck() (41 R108) -/
  | breakCheck
  /-- SetFlag(f) (41 R112) -/
  | setFlag (f : Flag)
  /-- ClearFlag(f) (41 R112) -/
  | clearFlag (f : Flag)
  /-- EnterStop() (41 R113) -/
  | enterStop
  /-- ProcessException(v) and the exposed processException(v) (60 R160, R173) -/
  | processException (vector : Nat)
  /-- ProcessInterrupt(level) (60 R174) -/
  | processInterrupt (level : Nat)
  /-- ProcessIllegalInstruction(opcode) (40 R89) -/
  | processIllegalInstruction (opcode : Half)
  /-- BusError(addr, size, dir) (60 R168) -/
  | busError (addr : Word) (size : AccessSize) (dir : Dir)
  /-- AddressError(addr, size, dir) (60 R169) -/
  | addressError (addr : Word) (size : AccessSize) (dir : Dir)
  /-- SetPC(addr) (40 R88) -/
  | setPC (addr : Word)
  /-- PackSR() (43 R138) -/
  | packSR
  /-- SetSR(value) (43 R139) -/
  | setSR (value : Half)
  /-- GetSR() (43 R140) -/
  | getSR
  /-- getRegister(id) (43 R142); the numbers are those of 30 R71 -/
  | getRegister (id : Nat)
  /-- setRegister(id, value) (43 R143) -/
  | setRegister (id : Nat) (value : Word)
  /-- getRegisters() (43 R144) -/
  | getRegisters
  /-- setRegisters(regs) (43 R145) -/
  | setRegisters (regs : RegFile)
  /-- save(file) (43 R146) -/
  | save (file : FileId)
  /-- load(file) (43 R147) -/
  | load (file : FileId)
  /-- installHook(kind, key, cb) (42 R121) -/
  | installHook (kind : HookKind) (key : Nat) (cb : Callback)
  /-- removeHook(kind, key, cb) (42 R122) -/
  | removeHook (kind : HookKind) (key : Nat) (cb : Callback)
  /-- EventJSR(ev) (40 R91) -/
  | eventJSR (ev : EventRecord)
  /-- EventJSRInd(ev) (40 R92) -/
  | eventJSRInd (ev : EventRecord)
  /-- EventLINK(ev) (40 R93) -/
  | eventLINK (ev : EventRecord)
  /-- EventRTE(ev) (40 R94) -/
  | eventRTE (ev : EventRecord)
  /-- EventRTS(ev) (40 R95) -/
  | eventRTS (ev : EventRecord)
  /-- EventNewSP(ev) (40 R96) -/
  | eventNewSP (ev : EventRecord)
  /-- cycleCount() (40 R97) -/
  | cycleCount
  deriving DecidableEq, Repr

end Sys2Proof
end

