-- ==== Sys2Proof/WellFormed.lean ====
section
/-! DEFINITION. Which terms of Instr are instructions of the spec: an operand the spec confines to a range lies in it, and
an opcode-word row is used for the words that are its own. -/

namespace Sys2Proof

/-- A mask and the value the masked word must have. -/
structure WordPattern where
  mask : Half
  value : Half
  deriving DecidableEq, Repr

/-- The opcode words with a row of their own: the table of spec 30 R77. -/
def namedWords : List WordPattern :=
  [ ⟨0xFFFF, 0x4E71⟩, ⟨0xFFFF, 0x4E72⟩, ⟨0xFFFF, 0x4E73⟩, ⟨0xFFFF, 0x4E75⟩, ⟨0xFFFF, 0x4E76⟩,
    ⟨0xFFF0, 0x4E40⟩, ⟨0xFFF8, 0x4E50⟩, ⟨0xFFC0, 0x4E80⟩, ⟨0xFFFF, 0x4AFC⟩, ⟨0xFFFF, 0x3039⟩ ]

/-- The word matches a pattern. -/
def WordPattern.covers (p : WordPattern) (op : Half) : Bool :=
  op &&& p.mask == p.value

/-- Some row of spec 30 R77 covers the word. -/
def isNamedWord (op : Half) : Bool :=
  namedWords.any fun p => p.covers op

/-- The operand ranges of the spec: a vector number is 0..255 (30 R68), a level 0..7 (30 R69), a register identifier 0..25
(30 R71), the key of an exception hook 0..255 (42 R121); ILLEGAL_OTHER is for a top nibble other than 0xA and 0xF (30 R61)
and not for a word with a row of its own. -/
def Instr.wellFormed : Instr → Bool
  | .dispatch _ => true
  | .illegalLineA _ => true
  | .illegalLineF _ => true
  | .illegalOther line rest => line != 0xA && line != 0xF && !isNamedWord (line ++ rest)
  | .nop => true
  | .stop => true
  | .rte => true
  | .rts => true
  | .trapv => true
  | .trap _ => true
  | .link _ => true
  | .jsr _ _ => true
  | .illegal => true
  | .moveWAbsLD0 => true
  | .reset _ => true
  | .execute => true
  | .executeSpecial => true
  | .executeStoppedLoop => true
  | .breakCheck => true
  | .setFlag _ => true
  | .clearFlag _ => true
  | .enterStop => true
  | .processException vector => vector ≤ 255
  | .processInterrupt level => level ≤ 7
  | .processIllegalInstruction _ => true
  | .busError _ _ _ => true
  | .addressError _ _ _ => true
  | .setPC _ => true
  | .packSR => true
  | .setSR _ => true
  | .getSR => true
  | .getRegister id => id ≤ 25
  | .setRegister id _ => id ≤ 25
  | .getRegisters => true
  | .setRegisters _ => true
  | .save _ => true
  | .load _ => true
  | .installHook kind key _ => kind != .exception || key ≤ 255
  | .removeHook kind key _ => kind != .exception || key ≤ 255
  | .eventJSR _ => true
  | .eventJSRInd _ => true
  | .eventLINK _ => true
  | .eventRTE _ => true
  | .eventRTS _ => true
  | .eventNewSP _ => true
  | .cycleCount => true

/-- The instruction is an opcode word fetched by the loop, not an operation invoked at a port (spec 30 R74). -/
def Instr.isOpcodeWord : Instr → Bool
  | .dispatch _ | .illegalLineA _ | .illegalLineF _ | .illegalOther _ _ | .nop | .stop | .rte | .rts | .trapv | .trap _
  | .link _ | .jsr _ _ | .illegal | .moveWAbsLD0 => true
  | .reset _ | .execute | .executeSpecial | .executeStoppedLoop | .breakCheck | .setFlag _ | .clearFlag _ | .enterStop
  | .processException _ | .processInterrupt _ | .processIllegalInstruction _ | .busError _ _ _ | .addressError _ _ _
  | .setPC _ | .packSR | .setSR _ | .getSR | .getRegister _ | .setRegister _ _ | .getRegisters | .setRegisters _
  | .save _ | .load _ | .installHook _ _ _ | .removeHook _ _ _ | .eventJSR _ | .eventJSRInd _ | .eventLINK _
  | .eventRTE _ | .eventRTS _ | .eventNewSP _ | .cycleCount => false

/-- The operation is one the block exposes (spec 00 R7; PackSR and GetSR by 30 R74): not an opcode word, and not one of the
three that only the loop and its pass invoke. -/
def Instr.isExposed : Instr → Bool
  | .dispatch _ | .illegalLineA _ | .illegalLineF _ | .illegalOther _ _ | .nop | .stop | .rte | .rts | .trapv | .trap _
  | .link _ | .jsr _ _ | .illegal | .moveWAbsLD0 | .executeSpecial | .executeStoppedLoop | .breakCheck => false
  | .reset _ | .execute | .setFlag _ | .clearFlag _ | .enterStop | .processException _ | .processInterrupt _
  | .processIllegalInstruction _ | .busError _ _ _ | .addressError _ _ _ | .setPC _ | .packSR | .setSR _ | .getSR
  | .getRegister _ | .setRegister _ _ | .getRegisters | .setRegisters _ | .save _ | .load _ | .installHook _ _ _
  | .removeHook _ _ _ | .eventJSR _ | .eventJSRInd _ | .eventLINK _ | .eventRTE _ | .eventRTS _ | .eventNewSP _
  | .cycleCount => true

/-- A call that the host or a collaborator can make: nobody acts on the block but through the exposed operations (spec 00
R2, R7). -/
abbrev Call := { i : Instr // i.isExposed = true }

end Sys2Proof
end

