-- ==== Sys2Proof/Decode.lean ====
section
/-! DEFINITION. The decoder of opcode words and, after it, the encoder (spec 30 R60 to R62, R73, R77). The operations of
30 R74 have no bits: they are never decoded and they encode to no word. -/

namespace Sys2Proof

/-- The two bytes of a 16-bit value, most significant first (spec 20 R42). -/
def halfBytes (h : Half) : List Byte :=
  [h.extractLsb' 8 8, h.extractLsb' 0 8]

/-- A 16-bit value from its two bytes, most significant first (spec 20 R42). -/
def halfOfBytes (hi lo : Byte) : Half :=
  hi ++ lo

/-- The line field op[15:12] (spec 30 R60). -/
def lineOf (op : Half) : BitVec 4 :=
  op.extractLsb' 12 4

/-- The bits op[11:0], opaque to the block (spec 30 R60). -/
def restOf (op : Half) : BitVec 12 :=
  op.extractLsb' 0 12

/-- The instruction in a word's slot of the default OpTable (log 12): the words of spec 30 R77, each its own row, and the
illegal handler in every other slot (spec 95 section 3.1), classified by the top nibble as 30 R61 says. Every one of the
65536 words has a slot (30 R73); none decodes to `dispatch`, whose row covers them all. -/
def decodeWord (op : Half) : Instr :=
  if op = 0x4E71 then .nop
  else if op = 0x4E72 then .stop
  else if op = 0x4E73 then .rte
  else if op = 0x4E75 then .rts
  else if op = 0x4E76 then .trapv
  else if op.extractLsb' 4 12 = 0x4E4 then .trap (op.extractLsb' 0 4)
  else if op.extractLsb' 3 13 = 0x9CA then .link (op.extractLsb' 0 3)
  else if op.extractLsb' 6 10 = 0x13A then .jsr (op.extractLsb' 3 3) (op.extractLsb' 0 3)
  else if op = 0x4AFC then .illegal
  else if op = 0x3039 then .moveWAbsLD0
  else if lineOf op = 0xA then .illegalLineA (restOf op)
  else if lineOf op = 0xF then .illegalLineF (restOf op)
  else .illegalOther (lineOf op) (restOf op)

/-- Why bytes are not an instruction: there are fewer than the two of an opcode word (spec 30 R62). -/
inductive DecodeError where
  | truncated
  deriving DecidableEq, Repr

/-- Decode the first opcode word of a byte list; extension words stay in the rest, for the handler (spec 30 R62). -/
def decode : List Byte → Except DecodeError (Instr × List Byte)
  | hi :: lo :: rest => .ok (decodeWord (halfOfBytes hi lo), rest)
  | _ => .error .truncated

/-- The opcode word of an instruction, for the opcode-word rows. -/
def encodeWord : Instr → Option Half
  | .dispatch op => some op
  | .illegalLineA rest => some ((0xA : BitVec 4) ++ rest)
  | .illegalLineF rest => some ((0xF : BitVec 4) ++ rest)
  | .illegalOther line rest => some (line ++ rest)
  | .nop => some 0x4E71
  | .stop => some 0x4E72
  | .rte => some 0x4E73
  | .rts => some 0x4E75
  | .trapv => some 0x4E76
  | .trap n => some ((0x4E4 : BitVec 12) ++ n)
  | .link an => some ((0x9CA : BitVec 13) ++ an)
  | .jsr eaMode eaReg => some ((0x13A : BitVec 10) ++ eaMode ++ eaReg)
  | .illegal => some 0x4AFC
  | .moveWAbsLD0 => some 0x3039
  | .reset _ | .execute | .executeSpecial | .executeStoppedLoop | .breakCheck | .setFlag _ | .clearFlag _ | .enterStop
  | .processException _ | .processInterrupt _ | .processIllegalInstruction _ | .busError _ _ _ | .addressError _ _ _
  | .setPC _ | .packSR | .setSR _ | .getSR | .getRegister _ | .setRegister _ _ | .getRegisters | .setRegisters _
  | .save _ | .load _ | .installHook _ _ _ | .removeHook _ _ _ | .eventJSR _ | .eventJSRInd _ | .eventLINK _
  | .eventRTE _ | .eventRTS _ | .eventNewSP _ | .cycleCount => none

/-- The bytes of an instruction; none for an operation, which has no bit encoding (spec 30 R74). -/
def encode (i : Instr) : List Byte :=
  match encodeWord i with
  | some op => halfBytes op
  | none => []

/-- The opcode word in a number whose bits are counted as spec/opcode_table.json counts them: bits 15..0 are the first
word. -/
def tableWord (w : Nat) : Half :=
  BitVec.ofNat 16 w

/-- The bytes of up to three words (the longest instruction, MOVE.W with its two extension words) in a number whose
bits are counted as spec/opcode_table.json counts them, laid out as memory holds them. -/
def tableBytes (w : Nat) : List Byte :=
  halfBytes (tableWord w) ++ halfBytes (tableWord (w / 65536)) ++ halfBytes (tableWord (w / 4294967296))

/-- The instruction the decoder reads from a table row's bits. A row with fewer than 16 bits is an operation, which has
no encoding (spec 30 R74). -/
def decodeTableWord (nbits w : Nat) : Option Instr :=
  if nbits < 16 then none
  else
    match decode (tableBytes w) with
    | .ok (i, _) => some i
    | .error _ => none

end Sys2Proof
end

