-- ==== Sys2Proof/Machine/State.lean ====
section
/-! DEFINITION. The state of the machine as plain data: the cells of spec 10, the memory and session files behind the
collaborators, the platform's parameters, and the model's own sequencing and environment fields (marked MODEL). -/

namespace Sys2Proof.Machine

/-- Why the machine stops without the spec naming a refusal. -/
inductive Fault where
  /-- Raised when callbacks call operations nested deeper than the prepared answers can make them. No run from `exec`
  reaches it (log 11). Safe. -/
  | callbackDepth
  deriving DecidableEq, Repr

/-- Why the model gives no meaning: the `refuse` outcomes of the spec. -/
inductive Refusal where
  /-- Raised by `exec` for an instruction without a meaning. Safe. -/
  | notModelled (mnemonic : String)
  /-- Raised when a memory access or the new-PC validator faults during exception processing, reset, `setRegister(PC)`,
  `setRegisters`, `load`, or a `SetPC` that no opcode handler made (60 R172). Safe. -/
  | doubleFault
  /-- Raised by `execute()` while an activation is in progress and NESTED = 0, or from a handler (40 R98). Safe. -/
  | reentry
  /-- Raised when an operation is used where 70 R212 does not allow it (93 U6). Safe. -/
  | notSafePoint
  /-- Raised by a vector number outside 0..255 (30 R68, 60 R174). Safe. -/
  | badVector
  /-- Raised by an interrupt level above 7 (30 R69). Safe. -/
  | badLevel
  /-- Raised by an unknown register identifier (30 R71). Safe. -/
  | unknownRegister
  /-- Raised by an exception-hook key outside 0..255 (42 R121). Safe. -/
  | badHookKey
  /-- Raised by installing or removing a hook of a list that is being invoked (42 R123). Safe. -/
  | hookListBusy
  /-- Raised by `load` of a blob with a wrong length, a flag byte other than 0 and 1, or a mask above 7 (43 R147). Safe. -/
  | badBlob
  /-- Raised by `load` of a file the session-file collaborator does not hold (log 24). Safe. -/
  | noFile
  /-- Raised by `reset` with NESTED = 1, or from a place 70 R200 does not allow. Safe. -/
  | resetRefused
  deriving DecidableEq, Repr

/-- A memory fault `Fault(kind, addr, size, dir)` (spec 00 section 7). -/
structure MemFault where
  kind : FaultKind
  addr : Word
  size : AccessSize
  dir : Dir
  deriving DecidableEq, Repr

/-- FREC: the record of the last memory fault (spec 10 R26, 30 R70). -/
structure FaultRecord where
  addr : Word
  size : AccessSize
  dir : Dir
  deriving DecidableEq, Repr

/-- SF as seven booleans (spec 10 R22, 30 R65). -/
structure SpecialFlags where
  stop : Bool
  trace : Bool
  dotrace : Bool
  int : Bool
  doint : Bool
  brk : Bool
  eoc : Bool
  deriving DecidableEq, Repr

/-- The key of a hook list: a vector number for the exception kind, the kind alone for the others (spec 42 R120). -/
inductive HookKey where
  | exception (vector : Nat)
  | jsr
  | jsrInd
  | link
  | rte
  | rts
  | newPC
  | newSP
  deriving DecidableEq, Repr

/-- What a callback receives (spec 42 R129). -/
inductive HookArg where
  | vector (v : Nat)
  | address (addr : Word)
  | event (ev : EventRecord)
  deriving DecidableEq, Repr

/-- The three external subsystems suspended around the synthesized button events (spec 00 R6, 41 R110). -/
inductive Subsystem where
  | fuzz
  | playback
  | minimize
  deriving DecidableEq, Repr

/-- The calls the block makes to its environment (spec 00 R6), with their arguments. Memory accesses are not among them:
they go to `mem` under `cfg.policy`. -/
inductive EnvCall where
  | isBreakLocation (pc : Word)
  | onInstructionBreak
  | currentInterruptLevel
  | interruptVectorBase
  | isAsleep
  | isActive (sub : Subsystem)
  | setActive (sub : Subsystem) (on : Bool)
  /-- listed by the source and made by no rule (N20) -/
  | nowMillis
  | delay
  | onEndOfCycle (isReset : Bool)
  | sessionShouldBreak
  | onCycle (sleeping : Bool)
  | onCycleSlowly (sleeping : Bool)
  | kernelStackOverflowed
  | buttonEventPending
  | postPowerButton (down : Bool)
  | checkNewPC (addr : Word)
  /-- the call of an injected OpTable slot (40 R84) -/
  | handler (op : Half)
  /-- the call of a hook callback (42 R123) -/
  | hook (cb : Callback) (key : HookKey) (arg : HookArg)
  deriving DecidableEq, Repr

/-- The cells a register identifier names (spec 30 R71). -/
inductive RegId where
  | d (n : Fin 8)
  | a (n : Fin 8)
  | pc
  | sr
  | usp
  | ssp
  | vbr
  | sfc
  | dfc
  | fpcr
  | fpsr
  | fpiar
  deriving DecidableEq, Repr

/-- The one-bit status fields (spec 10 R14 to R16). -/
inductive StatusBit where
  | t1
  | t0
  | s
  | m
  | x
  | n
  | z
  | v
  | c
  deriving DecidableEq, Repr

/-- MODEL. One thing a callback does during its call (spec 70 R212; log 7): it acts on the block through the exposed
operations alone (00 R2, R7). -/
inductive Act where
  /-- invoke an exposed operation of the block -/
  | call (c : Call)
  /-- the platform changes a byte of memory by itself (log 31) -/
  | poke (addr : Word) (v : Byte)
  /-- the host sets or restores NESTED (10 R27) -/
  | setNested (on : Bool)
  deriving DecidableEq, Repr

/-- MODEL. One thing an injected opcode handler does during its call (spec 40 R90; log 7, 34): it writes the cells of the
register file plainly, accesses memory, and invokes operations. -/
inductive HandlerAct where
  /-- invoke an operation of the block -/
  | call (c : Call)
  /-- write a register-file cell, the packed SR among them, which the next PackSR overwrites (70 R216; log 22) -/
  | writeCell (id : RegId) (v : Word)
  /-- write a one-bit status field -/
  | writeBit (f : StatusBit) (on : Bool)
  /-- write IMASK -/
  | writeMask (m : BitVec 3)
  /-- write STOPPED, a cell of the register file (10 R23) -/
  | writeStopped (on : Bool)
  /-- read memory through the collaborator -/
  | load (addr : Word) (size : AccessSize)
  /-- write memory through the collaborator -/
  | store (addr : Word) (size : AccessSize) (v : Word)
  /-- the platform changes a byte of memory by itself (log 31) -/
  | poke (addr : Word) (v : Byte)
  deriving DecidableEq, Repr

/-- MODEL. What one call of the environment does and replies; a field not meant for the call is not looked at (log 6). -/
structure Answer where
  /-- what a callback does before it returns -/
  acts : List Act
  /-- what an injected opcode handler does before it returns -/
  body : List HandlerAct
  /-- the boolean reply -/
  yes : Bool
  /-- the reply of `currentInterruptLevel` -/
  level : Option Nat
  /-- the reply of `interruptVectorBase`; none stands for `cfg.vectorBase` -/
  number : Option Int
  /-- the memory fault in which `checkNewPC` or an injected handler ends, if it does -/
  fault : Option MemFault
  /-- the cost in `Done(c)` of an injected handler -/
  cost : Word
  deriving DecidableEq, Repr

/-- The reply of a call for which nothing is prepared: nothing done, "no", no level, no fault (log 6). -/
def Answer.quiet : Answer :=
  { acts := [], body := [], yes := false, level := none, number := none, fault := none, cost := 0 }

/-- MODEL. From where a stopped loop was entered, and so how it goes on when it ends (log 8). -/
inductive IdleIn where
  /-- from the pass of an `execute()` -/
  | loop
  /-- from an `ExecuteSpecial()` invoked by itself -/
  | special
  /-- `ExecuteStoppedLoop()` invoked by itself -/
  | port
  deriving DecidableEq, Repr

/-- MODEL. Where an activation in progress goes on (log 8). -/
inductive Phase where
  /-- at the label L, before step A (40 R80) -/
  | fetch
  /-- at step E: `execute()` was entered with STOP set (40 R81) -/
  | check
  /-- in the stopped loop, before an idle tick (41 R109) -/
  | idle (inn : IdleIn)
  deriving DecidableEq, Repr

/-- MODEL. The value an operation returns at its port (log 23). -/
inductive Ret where
  | bool (b : Bool)
  | half (h : Half)
  | word (w : Word)
  | regs (r : RegFile)
  deriving DecidableEq, Repr

/-- MODEL. Who is acting, which decides what is allowed (70 R212; log 21). -/
inductive Ctx where
  /-- the block itself, or the host; a callee too while no `execute()` is in progress (70 R212 (5)) -/
  | host
  /-- a session or housekeeping callback at a safe point -/
  | session
  /-- a hook callback -/
  | hook
  /-- an environment call that is no safe point -/
  | query
  /-- an opcode handler (40 R90) -/
  | handler
  deriving DecidableEq, Repr

/-- Memory: the bytes that differ from what an unlisted address reads as, by rising address. -/
abbrev Memory := List Host.Cell

/-- The state of the machine. -/
structure State where
  /-- the register file, the status fields and the packed word, the control registers, STOPPED (10 R10 to R21, R23) -/
  regs : RegFile
  /-- the special flags (10 R22) -/
  sf : SpecialFlags
  /-- CYC (10 R24) -/
  cyc : Word
  /-- LTA (10 R25) -/
  lta : Option Word
  /-- FREC (10 R26) -/
  frec : Option FaultRecord
  /-- NESTED (10 R27) -/
  nested : Bool
  /-- ITER (10 R28; log 25) -/
  iter : Nat
  /-- HOOKS: every registration in order of installation; the list of a key is its entries (10 R29; log 33) -/
  hooks : List (HookKey × Callback)
  /-- the memory behind the collaborator (20 R40) -/
  mem : Memory
  /-- the files of the session-file collaborator (43 R146) -/
  files : List (FileId × List Byte)
  /-- the platform's parameters (00 R5) -/
  cfg : Config
  /-- MODEL: the activations in progress, innermost first -/
  acts : List Phase
  /-- MODEL: the host's calls not yet taken -/
  port : List Call
  /-- MODEL: the environment's prepared answers; a call takes the first that is for it -/
  answers : List (EnvCall × Answer)
  /-- MODEL: the calls made to the environment, newest first -/
  calls : List EnvCall
  /-- MODEL: the value last returned at a port -/
  ret : Option Ret
  /-- MODEL: who is acting -/
  ctx : Ctx
  /-- MODEL: the hook lists being invoked -/
  busy : List HookKey
  /-- MODEL: how many iterations of a run inside a callback one step makes before it is tried again with more (log 10) -/
  bound : Nat
  deriving DecidableEq, Repr

end Sys2Proof.Machine

namespace Sys2Proof

open Machine

/-- The register file after hardware reset (10 R32): the spec's values, and 0 (DESIGN CHOICE, log 1) in D, A[0..6], USP and
SSP, which reset leaves alone. A[7] and PC are the reset vector, read from a memory with nothing listed (log 2, 3). -/
def RegFile.reset : RegFile :=
  { d := #v[0, 0, 0, 0, 0, 0, 0, 0]
    a := #v[0, 0, 0, 0, 0, 0, 0, 0]
    pc := 0
    usp := 0
    ssp := 0
    sr := 0x2700
    t1 := false
    t0 := false
    s := true
    m := false
    imask := 7
    x := false
    n := false
    z := false
    v := false
    c := false
    vbr := 0
    sfc := 0
    dfc := 0
    fpcr := 0
    fpsr := 0
    fpiar := 0
    stopped := false }

end Sys2Proof

namespace Sys2Proof.Machine

/-- No special flag set (10 R32). -/
def SpecialFlags.none : SpecialFlags :=
  { stop := false, trace := false, dotrace := false, int := false, doint := false, brk := false, eoc := false }

/-- The machine right after `reset(true)` (10 R32, 70 R201), with nothing loaded and no `execute()` in progress. -/
def State.reset : State :=
  { regs := RegFile.reset
    sf := SpecialFlags.none
    cyc := 0
    lta := .none
    frec := .none
    nested := false
    iter := 0
    hooks := []
    mem := []
    files := []
    cfg := Config.initial
    acts := []
    port := []
    answers := []
    calls := []
    ret := .none
    ctx := .host
    busy := []
    bound := 1000 }

end Sys2Proof.Machine
end

