-- ==== Sys2Proof/Machine/Memory.lean ====
section
/-! DEFINITION. The outcome of an operation inside the machine, and the memory port: bytes, big-endian values, the memory
policy, and the typed accesses of spec 20 R41. -/

namespace Sys2Proof.Machine

/-- The outcome of an operation: a value and the next state; or cut short by a memory fault, with the state as the
operation had made it (spec 20 R44, 60 R171); or unfinished, a run of `execute()` inside a callback having taken `bound`
iterations (93 V11; log 10); or a stop of the model. -/
inductive Run (α : Type) where
  | ok (a : α) (s : State)
  | abort (m : MemFault) (s : State)
  | unfinished
  | fault (f : Fault)
  | refused (r : Refusal)

/-- First one operation, then the next on its value and state. -/
def Run.andThen {α β : Type} (r : Run α) (f : α → State → Run β) : Run β :=
  match r with
  | .ok a s => f a s
  | .abort m s => .abort m s
  | .unfinished => .unfinished
  | .fault e => .fault e
  | .refused e => .refused e

/-- What is done when the operation was cut short by a memory fault. -/
def Run.onAbort {α : Type} (r : Run α) (f : MemFault → State → Run α) : Run α :=
  match r with
  | .ok a s => .ok a s
  | .abort m s => f m s
  | .unfinished => .unfinished
  | .fault e => .fault e
  | .refused e => .refused e

/-- A memory fault here is the double fault of spec 60 R172. -/
def Run.noAbort {α : Type} (r : Run α) : Run α :=
  r.onAbort fun _ _ => .refused .doubleFault

/-- The state in which an unfinished operation is tried again, with more iterations for the run inside its callback: nothing
else of it has happened yet, so a run that ends is carried out whole, and one that never ends is a run of the machine that
never ends (spec 93 V11: "neither stuck nor a fault: a non-terminating run; a model bounds runs by an iteration count";
log 10). -/
def State.retry (s : State) : State :=
  { s with bound := 2 * s.bound + 1 }

/-- The outcome at a port of an operation started in `s`: a memory fault that no opcode handler caused is refused (spec 60
R172), an unfinished operation is tried again. -/
def Run.outcome {α : Type} (r : Run α) (s : State) : Host.Outcome State Fault Refusal :=
  match r with
  | .ok _ t => .next t
  | .abort _ _ => .refused .doubleFault
  | .unfinished => .next s.retry
  | .fault e => .fault e
  | .refused e => .refused e

/-- The operation that, started in `s`, has an outcome: only `State.retry` changes `bound`. -/
def Run.ofOutcome (s : State) (o : Host.Outcome State Fault Refusal) : Run Unit :=
  match o with
  | .next t => if t.bound = s.bound then .ok () t else .unfinished
  | .fault e => .fault e
  | .refused e => .refused e

/-- What a byte of memory that nothing has written reads as (DESIGN CHOICE, log 2). -/
def Memory.blank : Byte := 0

/-- The byte at an address. -/
def Memory.read : Memory → Nat → Byte
  | [], _ => Memory.blank
  | (k, v) :: t, a => if k = a then v else Memory.read t a

/-- Memory with one byte changed, in canonical form: a blank byte is not listed. -/
def Memory.write : Memory → Nat → Byte → Memory
  | [], a, b => if b = Memory.blank then [] else [(a, b)]
  | (k, v) :: t, a, b =>
    if a < k then (if b = Memory.blank then (k, v) :: t else (a, b) :: (k, v) :: t)
    else if a = k then (if b = Memory.blank then t else (a, b) :: t)
    else (k, v) :: Memory.write t a b

/-- The canonical form from an address on: addresses strictly rising, none blank, all below 2^32. -/
def Memory.wfFrom : Nat → Memory → Bool
  | _, [] => true
  | lo, (k, v) :: t => decide (lo ≤ k) && decide (k < 4294967296) && v != Memory.blank && Memory.wfFrom (k + 1) t

/-- The canonical form of memory. -/
def Memory.wf (m : Memory) : Bool :=
  Memory.wfFrom 0 m

/-- The byte at an address of the machine: all 32 bits of the address count (DESIGN CHOICE, log 41). -/
def State.byte (s : State) (a : Word) : Byte :=
  s.mem.read a.toNat

/-- One byte of memory changed. -/
def State.setByte (s : State) (a : Word) (b : Byte) : State :=
  { s with mem := s.mem.write a.toNat b }

/-- The 16-bit value at an address, most significant byte first (spec 20 R42). -/
def State.half (s : State) (a : Word) : Half :=
  halfOfBytes (s.byte a) (s.byte (a + 1))

/-- The 32-bit value at an address, most significant byte first (spec 20 R42). -/
def State.word (s : State) (a : Word) : Word :=
  s.half a ++ s.half (a + 2)

/-- A 16-bit value stored, most significant byte first (spec 20 R42). -/
def State.setHalf (s : State) (a : Word) (h : Half) : State :=
  (s.setByte a (h.extractLsb' 8 8)).setByte (a + 1) (h.extractLsb' 0 8)

/-- A 32-bit value stored, most significant byte first (spec 20 R42). -/
def State.setWord (s : State) (a : Word) (w : Word) : State :=
  (s.setHalf a (w.extractLsb' 16 16)).setHalf (a + 2) (w.extractLsb' 0 16)

end Sys2Proof.Machine

namespace Sys2Proof

open Machine

/-- The number of bytes of an access (spec 30 R70). -/
def AccessSize.bytes : AccessSize → Nat
  | .one => 1
  | .two => 2
  | .four => 4

/-- The address lies in the region. -/
def Region.contains (r : Region) (a : Word) : Bool :=
  decide ((a - r.base).toNat < r.size)

/-- Every byte of an access is mapped. -/
def MemPolicy.mapsAll (p : MemPolicy) (addr : Word) (size : AccessSize) : Bool :=
  (List.range size.bytes).all fun k => p.mapped.any fun r => r.contains (addr + BitVec.ofNat 32 k)

end Sys2Proof

namespace Sys2Proof.Machine

/-- The address is odd and the access wider than a byte (spec 20 R43). -/
def misaligned (addr : Word) (size : AccessSize) : Bool :=
  size != .one && addr.getLsbD 0

end Sys2Proof.Machine

namespace Sys2Proof

open Machine

/-- The two conditions of the default policy (spec 20 R43), each where it is switched on: an odd address before an unmapped
one (DESIGN CHOICE, log 20). -/
def MemPolicy.oddOrUnmapped (p : MemPolicy) (odd unmapped : Bool) (addr : Word) (size : AccessSize) : Option FaultKind :=
  if odd && misaligned addr size then some .address
  else if unmapped && !p.mapsAll addr size then some .bus
  else none

/-- How the full-access variant is rejected, if it is (spec 20 R43, R50): it is subject to no rejection of the list. -/
def MemPolicy.verdictFull (p : MemPolicy) (addr : Word) (size : AccessSize) : Option FaultKind :=
  p.oddOrUnmapped p.fullOdd p.fullUnmapped addr size

/-- The rejection applies to the access. -/
def Rejection.applies (r : Rejection) (addr : Word) (size : AccessSize) (dir : Dir) : Bool :=
  r.dir = dir && (r.size = none || r.size = some size) && r.range.contains addr

/-- How an ordinary access is rejected, if it is (spec 20 R43). Where several conditions apply, the first rejection of the
list wins, over the odd-address check and over the mapping (DESIGN CHOICE, log 20). -/
def MemPolicy.verdict (p : MemPolicy) (addr : Word) (size : AccessSize) (dir : Dir) : Option FaultKind :=
  match p.rejections.find? fun r => r.applies addr size dir with
  | some r => some r.kind
  | none => p.oddOrUnmapped p.checkOdd true addr size

end Sys2Proof

namespace Sys2Proof.Machine

/-- An ordinary access is let through, or ends in a memory fault and transfers nothing (spec 20 R44). -/
def access (addr : Word) (size : AccessSize) (dir : Dir) (s : State) : Run Unit :=
  match s.cfg.policy.verdict addr size dir with
  | some kind => .abort { kind := kind, addr := addr, size := size, dir := dir } s
  | none => .ok () s

/-- `MemRead(addr, 2)`: the bytes stored; a read has no side effect, here and below (DESIGN CHOICE, log 42). -/
def memReadHalf (addr : Word) (s : State) : Run Half :=
  (access addr .two .read s).andThen fun _ s => .ok (s.half addr) s

/-- `MemRead(addr, 4)`. -/
def memReadWord (addr : Word) (s : State) : Run Word :=
  (access addr .four .read s).andThen fun _ s => .ok (s.word addr) s

/-- `MemWrite(addr, 2, v)`. -/
def memWriteHalf (addr : Word) (v : Half) (s : State) : Run Unit :=
  (access addr .two .write s).andThen fun _ s => .ok () (s.setHalf addr v)

/-- `MemWrite(addr, 4, v)`. -/
def memWriteWord (addr : Word) (v : Word) (s : State) : Run Unit :=
  (access addr .four .write s).andThen fun _ s => .ok () (s.setWord addr v)

/-- `MemReadFull(addr, 4)` (spec 20 R50). -/
def memReadFullWord (addr : Word) (s : State) : Run Word :=
  match s.cfg.policy.verdictFull addr .four with
  | some kind => .abort { kind := kind, addr := addr, size := .four, dir := .read } s
  | none => .ok (s.word addr) s

/-- A store of an injected opcode handler: the low bytes of the value (log 34). -/
def memStore (addr : Word) (size : AccessSize) (v : Word) (s : State) : Run Unit :=
  match size with
  | .one => (access addr .one .write s).andThen fun _ s => .ok () (s.setByte addr (v.extractLsb' 0 8))
  | .two => memWriteHalf addr (v.extractLsb' 0 16) s
  | .four => memWriteWord addr v s

end Sys2Proof.Machine
end

