-- ==== Sys2Proof/Machine/Flags.lean ====
section
/-! DEFINITION. The status word (spec 30 R63, 43 R135 to R140) and the special flags (spec 10 R22, 30 R65). The block
computes no condition code (spec 40 R99): the status fields are only packed, unpacked and written. -/

namespace Sys2Proof.Machine

/-- SR_MASK: the modelled bits of the status word (spec 30 R64). -/
def srMask : Half := 0xF71F

end Sys2Proof.Machine

namespace Sys2Proof

open Machine

/-- `pack()` (spec 43 R135). -/
def RegFile.pack (r : RegFile) : Half :=
  BitVec.ofBool r.t1 ++ BitVec.ofBool r.t0 ++ BitVec.ofBool r.s ++ BitVec.ofBool r.m ++ (0 : BitVec 1) ++ r.imask ++
    (0 : BitVec 3) ++ BitVec.ofBool r.x ++ BitVec.ofBool r.n ++ BitVec.ofBool r.z ++ BitVec.ofBool r.v ++
    BitVec.ofBool r.c

/-- `unpack(v)`: the ten fields and nothing else (spec 43 R136). -/
def RegFile.unpack (r : RegFile) (w : Half) : RegFile :=
  { r with
    t1 := w.getLsbD 15
    t0 := w.getLsbD 14
    s := w.getLsbD 13
    m := w.getLsbD 12
    imask := w.extractLsb' 8 3
    x := w.getLsbD 4
    n := w.getLsbD 3
    z := w.getLsbD 2
    v := w.getLsbD 1
    c := w.getLsbD 0 }

end Sys2Proof

namespace Sys2Proof.Machine

/-- `PackSR()` (spec 43 R138). -/
def State.packSR (s : State) : State :=
  { s with regs := { s.regs with sr := s.regs.pack } }

/-- `SF != 0` (spec 10 R22). -/
def SpecialFlags.any (f : SpecialFlags) : Bool :=
  f.stop || f.trace || f.dotrace || f.int || f.doint || f.brk || f.eoc

/-- One special flag written (spec 41 R112). -/
def SpecialFlags.put (f : SpecialFlags) (k : Flag) (on : Bool) : SpecialFlags :=
  match k with
  | .stop => { f with stop := on }
  | .trace => { f with trace := on }
  | .dotrace => { f with dotrace := on }
  | .int => { f with int := on }
  | .doint => { f with doint := on }
  | .brk => { f with brk := on }
  | .eoc => { f with eoc := on }

/-- One special flag read. -/
def SpecialFlags.get (f : SpecialFlags) (k : Flag) : Bool :=
  match k with
  | .stop => f.stop
  | .trace => f.trace
  | .dotrace => f.dotrace
  | .int => f.int
  | .doint => f.doint
  | .brk => f.brk
  | .eoc => f.eoc

/-- `SF.f <- on`. -/
def State.putFlag (s : State) (k : Flag) (on : Bool) : State :=
  { s with sf := s.sf.put k on }

/-- Step 7 of exception processing (spec 60 R167). -/
def State.clearTrace (s : State) : State :=
  { s with
    regs := { s.regs with t1 := false, t0 := false }
    sf := { s.sf with trace := false, dotrace := false } }

end Sys2Proof.Machine

namespace Sys2Proof

open Machine

/-- Step 3 of exception processing (spec 60 R163). -/
def RegFile.enterSupervisor (r : RegFile) : RegFile :=
  if r.s then r else { r with usp := r.a[7], a := r.a.set 7 r.ssp, s := true }

/-- The stack-pointer swap of `SetSR` (spec 43 R139), from the mode before to the mode after. -/
def RegFile.swapStacks (r : RegFile) (oldS : Bool) : RegFile :=
  if oldS && !r.s then { r with ssp := r.a[7], a := r.a.set 7 r.usp }
  else if !oldS && r.s then { r with usp := r.a[7], a := r.a.set 7 r.ssp }
  else r

end Sys2Proof

namespace Sys2Proof.Machine

/-- `SetSR(v)` (spec 43 R139). -/
def State.setSR (s : State) (v : Half) : State :=
  { s with
    regs := ({ s.regs.unpack v with sr := v &&& srMask } : RegFile).swapStacks s.regs.s
    sf := { s.sf with int := true, trace := v.getLsbD 15 } }

/-- `EnterStop()` (spec 41 R113). -/
def State.enterStop (s : State) : State :=
  { s with sf := { s.sf with stop := true }, regs := { s.regs with stopped := true } }

end Sys2Proof.Machine

namespace Sys2Proof

open Machine

/-- One status field written (spec 40 R90). -/
def RegFile.putBit (r : RegFile) (f : StatusBit) (on : Bool) : RegFile :=
  match f with
  | .t1 => { r with t1 := on }
  | .t0 => { r with t0 := on }
  | .s => { r with s := on }
  | .m => { r with m := on }
  | .x => { r with x := on }
  | .n => { r with n := on }
  | .z => { r with z := on }
  | .v => { r with v := on }
  | .c => { r with c := on }

end Sys2Proof
end

