-- ==== Sys2Proof/Machine/Operands.lean ====
section
/-! DEFINITION. Operand forms: general registers, register identifiers (spec 30 R71), the persisted blob (30 R72), hook-list
keys (42 R120), and the effective addresses of JSR (PRESUMED from the family, log 16). -/

namespace Sys2Proof

open Machine

/-- x[i]: x[0..7] are D[0..7], x[8..15] are A[0..7] (spec 00 section 7, 10 R10 and R11). -/
def RegFile.xreg (r : RegFile) (i : Fin 16) : Word :=
  if h : i.val < 8 then r.d[i.val] else r.a[i.val - 8]

end Sys2Proof

namespace Sys2Proof.Machine

/-- PC written with no hook and no validation (spec 00 section 7, `pc <- target`). -/
def State.putPC (s : State) (pc : Word) : State :=
  { s with regs := { s.regs with pc := pc } }

/-- A[7] written. -/
def State.putSP (s : State) (sp : Word) : State :=
  { s with regs := { s.regs with a := s.regs.a.set 7 sp } }

/-- A[n] written. -/
def State.putA (s : State) (n : Fin 8) (v : Word) : State :=
  { s with regs := { s.regs with a := s.regs.a.set n v } }

/-- The active stack pointer A[7] (spec 10 R11). -/
def State.sp (s : State) : Word :=
  s.regs.a[7]

/-- The cell of a register-identifier number (spec 30 R71). -/
def RegId.ofNumber (n : Nat) : Option RegId :=
  if h : n < 8 then some (.d ⟨n, h⟩)
  else if h : n < 16 then some (.a ⟨n - 8, by omega⟩)
  else if n = 16 then some .pc
  else if n = 17 then some .sr
  else if n = 18 then some .usp
  else if n = 19 then some .ssp
  else if n = 20 then some .vbr
  else if n = 21 then some .sfc
  else if n = 22 then some .dfc
  else if n = 23 then some .fpcr
  else if n = 24 then some .fpsr
  else if n = 25 then some .fpiar
  else none

end Sys2Proof.Machine

namespace Sys2Proof

open Machine

/-- The named cell, as 32 bits (spec 43 R142). -/
def RegFile.cell (r : RegFile) : RegId → Word
  | .d n => r.d[n]
  | .a n => r.a[n]
  | .pc => r.pc
  | .sr => r.sr.zeroExtend 32
  | .usp => r.usp
  | .ssp => r.ssp
  | .vbr => r.vbr
  | .sfc => r.sfc
  | .dfc => r.dfc
  | .fpcr => r.fpcr
  | .fpsr => r.fpsr
  | .fpiar => r.fpiar

/-- The named cell written plainly. -/
def RegFile.putCell (r : RegFile) (id : RegId) (w : Word) : RegFile :=
  match id with
  | .d n => { r with d := r.d.set n w }
  | .a n => { r with a := r.a.set n w }
  | .pc => { r with pc := w }
  | .sr => { r with sr := w.extractLsb' 0 16 }
  | .usp => { r with usp := w }
  | .ssp => { r with ssp := w }
  | .vbr => { r with vbr := w }
  | .sfc => { r with sfc := w }
  | .dfc => { r with dfc := w }
  | .fpcr => { r with fpcr := w }
  | .fpsr => { r with fpsr := w }
  | .fpiar => { r with fpiar := w }

end Sys2Proof

namespace Sys2Proof.Machine

/-- The hook list of a kind and key; only the exception kind looks at the key, which is 0..255 (spec 42 R120, R121). -/
def HookKey.of (kind : HookKind) (key : Nat) : Option HookKey :=
  match kind with
  | .exception => if key ≤ 255 then some (.exception key) else none
  | .jsr => some .jsr
  | .jsrInd => some .jsrInd
  | .link => some .link
  | .rte => some .rte
  | .rts => some .rts
  | .newPC => some .newPC
  | .newSP => some .newSP

/-- The callbacks of a list, in order of registration (spec 42 R120). -/
def State.hookList (s : State) (key : HookKey) : List Callback :=
  s.hooks.filterMap fun e => if e.1 = key then some e.2 else none

/-- The bytes of a 32-bit value, most significant first (spec 30 R72). -/
def wordBytes (w : Word) : List Byte :=
  halfBytes (w.extractLsb' 16 16) ++ halfBytes (w.extractLsb' 0 16)

/-- A 32-bit value from four bytes, most significant first. -/
def wordOfBytes (b3 b2 b1 b0 : Byte) : Word :=
  halfOfBytes b3 b2 ++ halfOfBytes b1 b0

/-- A flag as a blob byte, 0 or 1 (spec 30 R72). -/
def flagByte (b : Bool) : Byte :=
  if b then 1 else 0

/-- The flag in a blob byte; none for a byte other than 0 and 1 (spec 43 R147). -/
def flagOfByte (b : Byte) : Option Bool :=
  if b = 0 then some false else if b = 1 then some true else none

end Sys2Proof.Machine

namespace Sys2Proof

open Machine

/-- The 110 bytes of the persisted blob (spec 30 R72). -/
def RegFile.blob (r : RegFile) : List Byte :=
  r.d.toList.flatMap wordBytes ++ r.a.toList.flatMap wordBytes ++ wordBytes r.pc ++ wordBytes r.usp ++
    wordBytes r.ssp ++ wordBytes r.vbr ++ wordBytes r.sfc ++ wordBytes r.dfc ++ wordBytes r.fpcr ++ wordBytes r.fpsr ++
    wordBytes r.fpiar ++
    [flagByte r.t1, flagByte r.t0, flagByte r.s, flagByte r.m, r.imask.zeroExtend 8, flagByte r.x, flagByte r.n,
      flagByte r.z, flagByte r.v, flagByte r.c]

end Sys2Proof

namespace Sys2Proof.Machine

/-- The 32-bit values at the head of a byte list. -/
def takeWords : Nat → List Byte → Option (List Word × List Byte)
  | 0, l => some ([], l)
  | n + 1, b3 :: b2 :: b1 :: b0 :: rest =>
    (takeWords n rest).map fun p => (wordOfBytes b3 b2 b1 b0 :: p.1, p.2)
  | _ + 1, _ => none

/-- Eight values as a register bank. -/
def bankOf (l : List Word) : Vector Word 8 :=
  #v[l.getD 0 0, l.getD 1 0, l.getD 2 0, l.getD 3 0, l.getD 4 0, l.getD 5 0, l.getD 6 0, l.getD 7 0]

end Sys2Proof.Machine

namespace Sys2Proof

open Machine

/-- The ten status bytes at the end of a blob; none unless each flag byte is 0 or 1 and the mask at most 7 (spec 43
R147). -/
def RegFile.withStatusBytes (r : RegFile) : List Byte → Option RegFile
  | [bt1, bt0, bs, bm, bi, bx, bn, bz, bv, bc] =>
    match flagOfByte bt1, flagOfByte bt0, flagOfByte bs, flagOfByte bm, flagOfByte bx, flagOfByte bn, flagOfByte bz,
      flagOfByte bv, flagOfByte bc with
    | some t1, some t0, some sup, some m, some x, some n, some z, some v, some c =>
      if bi ≤ 7 then
        some { r with t1 := t1, t0 := t0, s := sup, m := m, imask := bi.extractLsb' 0 3, x := x, n := n, z := z, v := v, c := c }
      else none
    | _, _, _, _, _, _, _, _, _ => none
  | _ => none

/-- The register file with every cell of spec 30 R72 taken from a blob; SR and STOPPED are not in it. None for a blob that
is refused. -/
def RegFile.ofBlob (r : RegFile) (blob : List Byte) : Option RegFile :=
  match takeWords 25 blob with
  | some (ws, status) =>
    ({ r with
        d := bankOf ws
        a := bankOf (ws.drop 8)
        pc := ws.getD 16 0
        usp := ws.getD 17 0
        ssp := ws.getD 18 0
        vbr := ws.getD 19 0
        sfc := ws.getD 20 0
        dfc := ws.getD 21 0
        fpcr := ws.getD 22 0
        fpsr := ws.getD 23 0
        fpiar := ws.getD 24 0 } : RegFile).withStatusBytes status
  | none => none

end Sys2Proof

namespace Sys2Proof.Machine

/-- The effective-address modes JSR takes in the family: its control addressing modes (PRESUMED, log 16). -/
def isControlMode (eaMode eaReg : BitVec 3) : Bool :=
  eaMode == 2 || eaMode == 5 || eaMode == 6 || (eaMode == 7 && decide (eaReg.toNat ≤ 3))

/-- The index of a brief extension word: register and size in its top five bits, displacement in its low byte (PRESUMED,
log 16). -/
def briefIndex (r : RegFile) (ext : Half) : Word :=
  let reg : Fin 16 := ⟨(ext.extractLsb' 12 4).toNat, (ext.extractLsb' 12 4).isLt⟩
  let value := r.xreg reg
  let index := if ext.getLsbD 11 then value else (value.extractLsb' 0 16).signExtend 32
  index + (ext.extractLsb' 0 8).signExtend 32

/-- The target of a control addressing mode and the address of the next instruction, for an opcode word at PC
(PRESUMED, log 16). -/
def controlAddress (eaMode eaReg : BitVec 3) (s : State) : Run (Word × Word) :=
  let pc := s.regs.pc
  let an := s.regs.a[eaReg.toFin]
  if eaMode = 2 then .ok (an, pc + 2) s
  else if eaMode = 5 then
    (memReadHalf (pc + 2) s).andThen fun d16 s => .ok (an + d16.signExtend 32, pc + 4) s
  else if eaMode = 6 then
    (memReadHalf (pc + 2) s).andThen fun ext s => .ok (an + briefIndex s.regs ext, pc + 4) s
  else if eaReg = 0 then
    (memReadHalf (pc + 2) s).andThen fun a16 s => .ok (a16.signExtend 32, pc + 4) s
  else if eaReg = 1 then
    (memReadWord (pc + 2) s).andThen fun a32 s => .ok (a32, pc + 6) s
  else if eaReg = 2 then
    (memReadHalf (pc + 2) s).andThen fun d16 s => .ok (pc + 2 + d16.signExtend 32, pc + 4) s
  else
    (memReadHalf (pc + 2) s).andThen fun ext s => .ok (pc + 2 + briefIndex s.regs ext, pc + 4) s

end Sys2Proof.Machine
end

