-- ==== Sys2Proof/Machine/Ops.lean ====
section
/-! DEFINITION. The shared operations: calls of the environment and what callbacks may do in them (spec 00 R6, 70 R212),
hooks (42), installing a PC (40 R88), taking an exception (60 R160), memory faults (60 R168 to R171), interrupts (60 R174),
illegal opcodes (40 R89), and the return from exception (60 R180). -/

namespace Sys2Proof.Machine

/-- How an operation invoked by a callback or a handler is carried out. Every shared operation takes it as a parameter, so
that an operation can be invoked from inside another; Machine/Invoke.lean supplies it. -/
abbrev Runner := Instr → State → Run Unit

/-- VEC_BUS_ERROR (spec 00 R5). -/
def vecBusError : Nat := 2
/-- VEC_ADDRESS_ERROR (spec 00 R5). -/
def vecAddressError : Nat := 3
/-- VEC_ILLEGAL (spec 00 R5). -/
def vecIllegal : Nat := 4
/-- VEC_ZERO_DIVIDE (spec 00 R5): raised by an external division handler (60 R156; log 29). -/
def vecZeroDivide : Nat := 5
/-- VEC_CHK (spec 00 R5): raised by an external CHK handler (60 R156; log 29). -/
def vecChk : Nat := 6
/-- VEC_TRAPV (spec 00 R5). -/
def vecTrapv : Nat := 7
/-- VEC_PRIVILEGE (spec 00 R5). -/
def vecPrivilege : Nat := 8
/-- VEC_TRACE (spec 00 R5). -/
def vecTrace : Nat := 9
/-- VEC_LINE_A (spec 00 R5). -/
def vecLineA : Nat := 10
/-- VEC_LINE_F (spec 00 R5). -/
def vecLineF : Nat := 11
/-- VEC_TRAP0 (spec 00 R5). -/
def vecTrap0 : Nat := 32

/-- `CYC <- CYC +32 c` (spec 40 R84, R99). -/
def State.addCycles (s : State) (c : Word) : State :=
  { s with cyc := s.cyc + c }

/-- The value an operation returns at its port (log 23). -/
def State.returns (s : State) (r : Ret) : State :=
  { s with ret := some r }

/-- Another actor. -/
def State.withCtx (s : State) (c : Ctx) : State :=
  { s with ctx := c }

/-- The hook lists being invoked. -/
def State.withBusy (s : State) (b : List HookKey) : State :=
  { s with busy := b }

/-! What may be asked for, and where (spec 00 R7, 40 R90, 70 R212; log 21) -/

/-- The operations that may be used at any moment (spec 70 R212). -/
def isAnyMoment : Instr → Bool
  | .setFlag .eoc | .setFlag .brk | .cycleCount => true
  | _ => false

/-- The operations an opcode handler may invoke (spec 40 R90). -/
def isHandlerOp : Instr → Bool
  | .setPC _ | .packSR | .getSR | .setSR _ | .enterStop | .processException _ | .processIllegalInstruction _ | .eventJSR _
  | .eventJSRInd _ | .eventLINK _ | .eventRTE _ | .eventRTS _ | .eventNewSP _ | .setFlag _ | .clearFlag _ => true
  | _ => false

/-- The refusal of an operation in a place that may not use it. -/
def misplaced : Instr → Refusal
  | .execute => .reentry
  | .reset _ => .resetRefused
  | _ => .notSafePoint

/-- Why an actor may not invoke an exposed operation where it stands, if it may not. -/
def Ctx.refusesCall (c : Ctx) (i : Instr) : Option Refusal :=
  if isAnyMoment i then none
  else
    match c with
    | .host | .session | .hook => none
    | .query => some (misplaced i)
    | .handler => if isHandlerOp i then none else some (misplaced i)

/-- A call made by whoever is acting. -/
def makeCall (run : Runner) (c : Call) (s : State) : Run Unit :=
  match s.ctx.refusesCall c.val with
  | some r => .refused r
  | none => run c.val s

/-- One thing done by a callback (log 7). A call that takes an exception, BusError and AddressError among them, is complete
when its seven steps are, and the callback goes on (DESIGN CHOICE, log 40). -/
def performAct (run : Runner) (act : Act) (s : State) : Run Unit :=
  match act with
  | .call c => makeCall run c s
  | .poke addr v => .ok () (s.setByte addr v)
  | .setNested on =>
    match s.ctx with
    | .host | .session | .hook => .ok () { s with nested := on }
    | .query | .handler => .refused .notSafePoint

/-- What a callback does, in order. -/
def performActs (run : Runner) : List Act → State → Run Unit
  | [], s => .ok () s
  | act :: rest, s => (performAct run act s).andThen fun _ s => performActs run rest s

/-- One thing done by an injected opcode handler (spec 40 R90; log 34). -/
def performHandlerAct (run : Runner) (act : HandlerAct) (s : State) : Run Unit :=
  match act with
  | .call c => makeCall run c s
  | .writeCell id v => .ok () { s with regs := s.regs.putCell id v }
  | .writeBit f on => .ok () { s with regs := s.regs.putBit f on }
  | .writeMask m => .ok () { s with regs := { s.regs with imask := m } }
  | .writeStopped on => .ok () { s with regs := { s.regs with stopped := on } }
  | .load addr size => access addr size .read s
  | .store addr size v => memStore addr size v s
  | .poke addr v => .ok () (s.setByte addr v)

/-- What an injected opcode handler does, in order. -/
def performHandlerActs (run : Runner) : List HandlerAct → State → Run Unit
  | [], s => .ok () s
  | act :: rest, s => (performHandlerAct run act s).andThen fun _ s => performHandlerActs run rest s

/-! Calls of the environment (spec 00 R6; log 6) -/

/-- The first answer prepared for a call; the quiet one where none is. -/
def firstAnswer (c : EnvCall) : List (EnvCall × Answer) → Answer
  | [] => Answer.quiet
  | e :: t => if e.1 = c then e.2 else firstAnswer c t

/-- The prepared answers without the first one for a call. -/
def dropAnswer (c : EnvCall) : List (EnvCall × Answer) → List (EnvCall × Answer)
  | [] => []
  | e :: t => if e.1 = c then t else e :: dropAnswer c t

/-- An answer is prepared for the call. -/
def State.prepared (s : State) (c : EnvCall) : Bool :=
  s.answers.any fun e => e.1 = c

/-- The answer a call gets. -/
def State.answer (s : State) (c : EnvCall) : Answer :=
  firstAnswer c s.answers

/-- The call made: noted, and its answer taken. -/
def State.called (s : State) (c : EnvCall) : State :=
  { s with calls := c :: s.calls, answers := dropAnswer c s.answers }

/-- Who acts inside a call: the safe points of spec 70 R212 (log 21). -/
def EnvCall.ctx : EnvCall → Ctx
  | .isBreakLocation _ | .onInstructionBreak | .delay | .onEndOfCycle _ | .sessionShouldBreak | .onCycle _
  | .onCycleSlowly _ => .session
  | .hook _ _ _ => .hook
  | .handler _ => .handler
  | .currentInterruptLevel | .interruptVectorBase | .isAsleep | .isActive _ | .setActive _ _ | .nowMillis
  | .kernelStackOverflowed | .buttonEventPending | .postPowerButton _ | .checkNewPC _ => .query

/-- Who acts inside a call made in `s`: while no `execute()` is in progress every moment is a safe point, so a callee that is
no safe point by itself may act as the host may (spec 70 R212 (5)). An opcode handler runs inside an iteration. -/
def State.calleeCtx (s : State) (c : EnvCall) : Ctx :=
  if c.ctx = .query ∧ s.acts = [] ∧ s.ctx ≠ .handler then .host else c.ctx

/-- A synchronous call of the environment: the callee acts, then replies. A memory fault caused by what it does is not a
handler's (log 19). -/
def envCall (run : Runner) (c : EnvCall) (s : State) : Run Answer :=
  ((performActs run (s.answer c).acts ((s.called c).withCtx (s.calleeCtx c))).noAbort).andThen fun _ s' =>
    .ok (s.answer c) (s'.withCtx s.ctx)

/-- A query with a boolean reply. -/
def envAsk (run : Runner) (c : EnvCall) (s : State) : Run Bool :=
  (envCall run c s).andThen fun a s => .ok a.yes s

/-- A call without a reply. -/
def envTell (run : Runner) (c : EnvCall) (s : State) : Run Unit :=
  (envCall run c s).andThen fun _ s => .ok () s

/-! Hooks (spec 42 R123 to R127) -/

/-- Every callback of a list called in order; the OR of the replies, all being called. -/
def callHooks (run : Runner) (key : HookKey) (arg : HookArg) : List Callback → State → Run Bool
  | [], s => .ok false s
  | h :: t, s =>
    (envAsk run (.hook h key arg) s).andThen fun r s =>
      (callHooks run key arg t s).andThen fun rest s => .ok (r || rest) s

/-- The list of a key invoked; while it is, it may not be changed (spec 42 R123). -/
def invokeHooks (run : Runner) (key : HookKey) (arg : HookArg) (s : State) : Run Bool :=
  (callHooks run key arg (s.hookList key) (s.withBusy (key :: s.busy))).andThen fun r s' => .ok r (s'.withBusy s.busy)

/-- `EventNewSP(ev)` (spec 40 R96). -/
def eventNewSP (run : Runner) (ev : EventRecord) (s : State) : Run Unit :=
  (invokeHooks run .newSP (.event ev) s).andThen fun _ s => .ok () s

/-- The event record that the block, or a handler of the default OpTable, fills when it calls an event port: a free value
(log 18). -/
def freeRecord (s : State) : EventRecord := Config.freeEventRecord s.calls.length

/-- `EventLINK(ev)`: a result is ignored (spec 40 R93). -/
def eventLINK (run : Runner) (ev : EventRecord) (s : State) : Run Unit :=
  (invokeHooks run .link (.event ev) s).andThen fun _ s => .ok () s

/-! Installing a PC (spec 40 R88) -/

/-- The default validation, which may end in a memory fault. -/
def checkNewPC (run : Runner) (addr : Word) (s : State) : Run Unit :=
  (envCall run (.checkNewPC addr) s).andThen fun a s =>
    match a.fault with
    | some m => .abort m s
    | none => .ok () s

/-- `SetPC(addr)`: new-PC hooks, validation, then the address is installed whatever it is. -/
def setPC (run : Runner) (addr : Word) (s : State) : Run Unit :=
  (invokeHooks run .newPC (.address addr) s).andThen fun _ s =>
    (checkNewPC run addr s).andThen fun _ s => .ok () (s.putPC addr)

/-! Taking an exception (spec 60 R160 to R167) -/

/-- The vectors that push the long frame (spec 60 R164). -/
def hasLongFrame (vector : Nat) : Bool :=
  vector == vecBusError || vector == vecAddressError

/-- SHORT_FRAME_BYTES and LONG_FRAME_BYTES (spec 00 R5). -/
def frameBytes (vector : Nat) : Word :=
  if hasLongFrame vector then 14 else 6

/-- The short frame at A[7] (spec 30 R66): SR, PC. The SR cell is pushed as the exception hooks left it, which is the word of
step 1 unless one of them rewrote it (DEDUCED, log 39). -/
def writeShortFrame (at_ : Word) (s : State) : Run Unit :=
  (memWriteHalf at_ s.regs.sr s).andThen fun _ s => memWriteWord (at_ + 2) s.regs.pc s

/-- The long frame at A[7] (spec 30 R67): three zero placeholders, SR as for the short frame (log 39), PC. -/
def writeLongFrame (at_ : Word) (s : State) : Run Unit :=
  (memWriteHalf at_ 0 s).andThen fun _ s =>
    (memWriteWord (at_ + 2) 0 s).andThen fun _ s =>
      (memWriteHalf (at_ + 6) 0 s).andThen fun _ s =>
        (memWriteHalf (at_ + 8) s.regs.sr s).andThen fun _ s => memWriteWord (at_ + 10) s.regs.pc s

/-- Step 4: A[7] lowered by the whole frame, then the fields in ascending order (spec 60 R164). -/
def pushFrame (vector : Nat) (s : State) : Run Unit :=
  let s := s.putSP (s.sp - frameBytes vector)
  if hasLongFrame vector then writeLongFrame s.sp s else writeShortFrame s.sp s

/-- The address of a vector-table entry (spec 60 R165). -/
def vectorAddress (vbr : Word) (vector : Nat) : Word :=
  vbr + BitVec.ofNat 32 (4 * vector)

/-- Steps 3 to 7, done when no hook handled the exception. A memory fault in them is the double fault (spec 60 R172). -/
def enterException (run : Runner) (vector : Nat) (s : State) : Run Unit :=
  ((pushFrame vector { s with regs := s.regs.enterSupervisor }).andThen fun _ s =>
    (memReadFullWord (vectorAddress s.regs.vbr vector) s).andThen fun h s =>
      (setPC run h s).andThen fun _ s => .ok () s.clearTrace).noAbort

/-- `ProcessException(v)`: pack, offer to the hooks, then steps 3 to 7 unless a hook handled it (spec 60 R160). -/
def processException (run : Runner) (vector : Nat) (s : State) : Run Unit :=
  if 255 < vector then .refused .badVector
  else
    (invokeHooks run (.exception vector) (.vector vector) s.packSR).andThen fun handled s =>
      if handled then .ok () s else enterException run vector s

/-- `BusError` and `AddressError`: the record, then the exception (spec 60 R168, R169). -/
def memoryFault (run : Runner) (m : MemFault) (s : State) : Run Unit :=
  processException run
    (match m.kind with
      | .bus => vecBusError
      | .address => vecAddressError)
    { s with frec := some { addr := m.addr, size := m.size, dir := m.dir } }

/-- The vector of an illegal opcode, by its top nibble (spec 30 R61). -/
def illegalVector (opcode : Half) : Nat :=
  if lineOf opcode = 0xA then vecLineA
  else if lineOf opcode = 0xF then vecLineF
  else vecIllegal

/-- `ProcessIllegalInstruction(opcode)` (spec 40 R89). -/
def processIllegalInstruction (run : Runner) (opcode : Half) (s : State) : Run Unit :=
  processException run (illegalVector opcode) s

/-- The vector of an interrupt: base plus level, in 0..255 (spec 60 R174, 40 R99). -/
def interruptVector (base : Int) (level : Nat) : Option Nat :=
  let v := base + (level : Int)
  if 0 ≤ v ∧ v ≤ 255 then some v.toNat else none

/-- `ProcessInterrupt(level)`: the mask and INT are written also when a hook handled the vector (spec 60 R174). -/
def processInterrupt (run : Runner) (level : Nat) (s : State) : Run Unit :=
  if 7 < level then .refused .badLevel
  else
    (envCall run .interruptVectorBase s).andThen fun a s =>
      match interruptVector (a.number.getD s.cfg.vectorBase) level with
      | none => .refused .badVector
      | some vector =>
        (processException run vector s).andThen fun _ s =>
          .ok () { s with regs := { s.regs with imask := BitVec.ofNat 3 level }, sf := { s.sf with int := true } }

/-! The return from exception (spec 60 R180) -/

/-- What RTE does in supervisor mode after its event port: SR and PC popped from a short frame, the status word written
through `SetSR`, the PC through `SetPC`. -/
def returnFromException (run : Runner) (s : State) : Run Unit :=
  (memReadHalf s.sp s).andThen fun sr s =>
    (memReadWord (s.sp + 2) s).andThen fun pc s => setPC run pc ((s.putSP (s.sp + 6)).setSR sr)

end Sys2Proof.Machine
end

