-- ==== Sys2Proof/Machine/OpcodeWords.lean ====
section
/-! DEFINITION. The opcode-word rows as handlers of the default OpTable (log 12): step C of an iteration for their words,
the cycle cost counted (spec 40 R84) and a memory fault of the handler processed (60 R171). -/

namespace Sys2Proof.Machine

/-- The cost every handler of spec 95 section 3.1 returns. -/
def fixtureCost : Word := 4

/-- Step C: the handler's body runs as an opcode handler and returns its cost, which is counted; a memory fault cuts it
short, keeps what it did, counts nothing and is processed (spec 40 R84, 60 R171). -/
def runHandler (run : Runner) (body : State → Run Word) (s : State) : Run Unit :=
  ((body (s.withCtx .handler)).andThen fun c s' => .ok () ((s'.withCtx s.ctx).addCycles c)).onAbort fun m s' =>
    memoryFault run m (s'.withCtx s.ctx)

/-- A step of a handler, then its cost. -/
def Run.thenCost {α : Type} (r : Run α) (c : Word) : Run Word :=
  r.andThen fun _ s => .ok c s

/-- The illegal handler FX_ILL: PC not changed first (spec 95 section 3.1, 40 R89). -/
def illegalHandler (run : Runner) (opcode : Half) (s : State) : Run Unit :=
  runHandler run (fun s => (processIllegalInstruction run opcode s).thenCost fixtureCost) s

/-- A privileged instruction in user mode: the privilege violation, PC at the instruction, and nothing else (spec 60
R183). -/
def privileged (run : Runner) (body : State → Run Word) (s : State) : Run Word :=
  if s.regs.s then body s else (processException run vecPrivilege s).thenCost fixtureCost

/-- DISPATCH of a word with an injected handler: what the handler does, then its `Done(c)` or its `Fault` (spec 40 R84,
R90; log 34). -/
def injectedHandler (run : Runner) (op : Half) (s : State) : Run Unit :=
  runHandler run
    (fun s' =>
      (performHandlerActs run (s.answer (.handler op)).body s').andThen fun _ s' =>
        match (s.answer (.handler op)).fault with
        | some m => .abort m s'
        | none => .ok (s.answer (.handler op)).cost s')
    (s.called (.handler op))

/-- ILLEGAL_LINE_A. -/
def opIllegalLineA (run : Runner) (rest : BitVec 12) (s : State) : Run Unit :=
  illegalHandler run ((0xA : BitVec 4) ++ rest) s

/-- ILLEGAL_LINE_F. -/
def opIllegalLineF (run : Runner) (rest : BitVec 12) (s : State) : Run Unit :=
  illegalHandler run ((0xF : BitVec 4) ++ rest) s

/-- ILLEGAL_OTHER. -/
def opIllegalOther (run : Runner) (line : BitVec 4) (rest : BitVec 12) (s : State) : Run Unit :=
  illegalHandler run (line ++ rest) s

/-- ILLEGAL 0x4AFC. -/
def opIllegal (run : Runner) (s : State) : Run Unit :=
  illegalHandler run 0x4AFC s

/-- FX_NOP (spec 95 section 3.1). -/
def opNop (run : Runner) (s : State) : Run Unit :=
  runHandler run (fun s => .ok fixtureCost (s.putPC (s.regs.pc + 2))) s

/-- FX_TRAP (spec 95 section 3.1, 60 R173). -/
def opTrap (run : Runner) (n : BitVec 4) (s : State) : Run Unit :=
  runHandler run
    (fun s => (processException run (vecTrap0 + n.toNat) (s.putPC (s.regs.pc + 2))).thenCost fixtureCost) s

/-- TRAPV: past the instruction, then the exception if V is set (spec 60 R156, R173, R178; log 17). -/
def opTrapv (run : Runner) (s : State) : Run Unit :=
  runHandler run
    (fun s =>
      let s := s.putPC (s.regs.pc + 2)
      if s.regs.v then (processException run vecTrapv s).thenCost s.cfg.externalCost else .ok s.cfg.externalCost s)
    s

/-- STOP (spec 60 R181). -/
def opStop (run : Runner) (s : State) : Run Unit :=
  runHandler run
    (privileged run fun s =>
      (memReadHalf (s.regs.pc + 2) s).andThen fun imm s =>
        .ok fixtureCost ((s.putPC (s.regs.pc + 4)).setSR imm).enterStop)
    s

/-- RTE (spec 60 R180). -/
def opRte (run : Runner) (s : State) : Run Unit :=
  runHandler run
    (privileged run fun s =>
      (invokeHooks run .rte (.event (freeRecord s)) s).andThen fun _ s =>
        (returnFromException run s).thenCost fixtureCost)
    s

/-- RTS: its port (spec 40 R95), then the return address popped (PRESUMED, log 14). EventNewSP, which a handler that changes
A[7] may call (40 R96), is not called (DESIGN CHOICE, log 14). -/
def opRts (run : Runner) (s : State) : Run Unit :=
  runHandler run
    (fun s =>
      (invokeHooks run .rts (.event (freeRecord s)) s).andThen fun _ s =>
        (memReadWord s.sp s).andThen fun pc s =>
          (setPC run pc (s.putSP (s.sp + 4))).thenCost s.cfg.externalCost)
    s

/-- LINK An, #d16: its port (spec 40 R93), then the frame (PRESUMED, log 15). EventNewSP is not called (DESIGN CHOICE,
log 15). -/
def opLink (run : Runner) (an : BitVec 3) (s : State) : Run Unit :=
  runHandler run
    (fun s =>
      (eventLINK run (freeRecord s) s).andThen fun _ s =>
        (memReadHalf (s.regs.pc + 2) s).andThen fun d16 s =>
          let s := s.putSP (s.sp - 4)
          (memWriteWord s.sp s.regs.a[an.toFin] s).andThen fun _ s =>
            let s := s.putA an.toFin s.sp
            .ok s.cfg.externalCost ((s.putSP (s.sp + d16.signExtend 32)).putPC (s.regs.pc + 4)))
    s

/-- The opcode word of a JSR. -/
def jsrWord (eaMode eaReg : BitVec 3) : Half :=
  (0x13A : BitVec 10) ++ eaMode ++ eaReg

/-- JSR ea: its port (spec 40 R91), then the return address pushed and the target installed (PRESUMED, log 16); a mode
that is none of the family's control modes is an illegal instruction. EventNewSP is not called (DESIGN CHOICE, log 16). -/
def opJsr (run : Runner) (eaMode eaReg : BitVec 3) (s : State) : Run Unit :=
  if isControlMode eaMode eaReg then
    runHandler run
      (fun s =>
        (invokeHooks run .jsr (.event (freeRecord s)) s).andThen fun _ s =>
          (controlAddress eaMode eaReg s).andThen fun t s =>
            let s := s.putSP (s.sp - 4)
            (memWriteWord s.sp t.2 s).andThen fun _ s => (setPC run t.1 s).thenCost s.cfg.externalCost)
      s
  else illegalHandler run (jsrWord eaMode eaReg) s

/-- The low half of a register replaced. -/
def lowHalf (w : Word) (h : Half) : Word :=
  w.extractLsb' 16 16 ++ h

/-- MOVE.W (xxx).L, D0: FX_LOADW (spec 95 section 3.1). -/
def opMoveWAbsLD0 (run : Runner) (s : State) : Run Unit :=
  runHandler run
    (fun s =>
      (memReadWord (s.regs.pc + 2) s).andThen fun a s =>
        (memReadHalf a (s.putPC (s.regs.pc + 6))).andThen fun v s =>
          .ok fixtureCost { s with regs := { s.regs with d := s.regs.d.set 0 (lowHalf s.regs.d[0] v) } })
    s

end Sys2Proof.Machine
end

