-- ==== Sys2Proof/Machine/Special.lean ====
section
/-! DEFINITION. The special-condition engine and the STOP idle loop (spec 41). An idle tick is one step of the machine, so
the stopped loop is entered here, and goes on from the activation's phase at the next step (log 8). -/

namespace Sys2Proof.Machine

/-- How an idle tick ends: the loop goes on, ends because STOP is clear, or ends by a break (spec 41 R109). -/
inductive TickEnd where
  | again
  | left
  | broke
  deriving DecidableEq, Repr

/-- The innermost activation goes on elsewhere. -/
def State.setTop (s : State) (p : Phase) : State :=
  { s with acts := p :: s.acts.tail }

/-- A new innermost activation. -/
def State.push (s : State) (p : Phase) : State :=
  { s with acts := p :: s.acts }

/-- The innermost activation ended. -/
def State.pop (s : State) : State :=
  { s with acts := s.acts.tail }

/-- `BreakCheck()`: BRK as it stands, OR the query, which is always asked (spec 41 R108; log 27). -/
def breakCheck (run : Runner) (s : State) : Run Bool :=
  (envAsk run .sessionShouldBreak s).andThen fun b s' => .ok (s.sf.brk || b) s'

/-- R102: END_OF_CYCLE cleared first, then the callback; true for "handled, stop". -/
def endOfCycleBranch (run : Runner) (s : State) : Run Bool :=
  if s.sf.eoc then envAsk run (.onEndOfCycle false) (s.putFlag .eoc false) else .ok false s

/-- The condition of R103. -/
def traceFires (s : State) : Bool :=
  s.sf.dotrace && !s.sf.stop

/-- R103: the trace exception. -/
def traceFireBranch (run : Runner) (s : State) : Run Unit :=
  if traceFires s then processException run vecTrace s else .ok () s

/-- The condition of R105. -/
def traceArms (s : State) : Bool :=
  s.sf.trace && s.regs.t1

/-- R105: LTA <- PC, TRACE to DOTRACE. -/
def traceArmBranch (s : State) : State :=
  if traceArms s then { s with lta := some s.regs.pc, sf := { s.sf with trace := false, dotrace := true } } else s

/-- The condition of R106 and R111: DOINT set and no kernel-stack overflow latched, which is asked only where DOINT is set
(DESIGN CHOICE, log 44). -/
def serviceDue (run : Runner) (s : State) : Run Bool :=
  if s.sf.doint then (envAsk run .kernelStackOverflowed s).andThen fun latched s => .ok (!latched) s else .ok false s

/-- The body of R106, and of R111 (`idle`), which clears STOP too when it serves. -/
def serviceInterrupt (run : Runner) (idle : Bool) (s : State) : Run Unit :=
  (envCall run .currentInterruptLevel s).andThen fun a s =>
    let s := s.putFlag .doint false
    match a.level with
    | none => .ok () s
    | some level =>
      if 7 < level then .refused .badLevel
      else if s.regs.imask.toNat < level then
        (processInterrupt run level s).andThen fun _ s =>
          .ok () { s with regs := { s.regs with stopped := false }, sf := { s.sf with stop := s.sf.stop && !idle } }
      else .ok () s

/-- R107: INT to DOINT. -/
def deferBranch (s : State) : State :=
  if s.sf.int then { s with sf := { s.sf with int := false, doint := true } } else s

/-- The service test followed by the deferral: under `chain` the deferral is skipped where the service ran (spec 41 R106,
R107, R111, R115). -/
def interruptBranches (run : Runner) (idle : Bool) (s : State) : Run Unit :=
  (serviceDue run s).andThen fun due s =>
    if due then
      (serviceInterrupt run idle s).andThen fun _ s' =>
        match s.cfg.scEval with
        | .sequential => .ok () (deferBranch s')
        | .chain => .ok () s'
    else .ok () (deferBranch s)

/-- `WakeSynthesis()` (spec 41 R110; log 37). -/
def wakeSynthesis (run : Runner) (s : State) : Run Unit :=
  (envAsk run .isAsleep s).andThen fun asleep s =>
    if asleep then
      (envAsk run .buttonEventPending s).andThen fun pending s =>
        if pending then .ok () s
        else
          (envAsk run (.isActive .fuzz) s).andThen fun f s =>
            (envAsk run (.isActive .playback) s).andThen fun p s =>
              (envAsk run (.isActive .minimize) s).andThen fun m s =>
                (envTell run (.setActive .fuzz false) s).andThen fun _ s =>
                  (envTell run (.setActive .playback false) s).andThen fun _ s =>
                    (envTell run (.setActive .minimize false) s).andThen fun _ s =>
                      (envTell run (.postPowerButton true) s).andThen fun _ s =>
                        (envTell run (.postPowerButton false) s).andThen fun _ s =>
                          (envTell run (.setActive .fuzz f) s).andThen fun _ s =>
                            (envTell run (.setActive .playback p) s).andThen fun _ s =>
                              envTell run (.setActive .minimize m) s
    else .ok () s

/-- One idle tick (spec 41 R109). -/
def idleTick (run : Runner) (s : State) : Run TickEnd :=
  (envTell run .delay s).andThen fun _ s =>
    (envTell run (.onCycle true) s).andThen fun _ s =>
      (envTell run (.onCycleSlowly true) s).andThen fun _ s =>
        (interruptBranches run true (s.addCycles s.cfg.idleTick)).andThen fun _ s =>
          (breakCheck run s).andThen fun b s =>
            .ok (if b then .broke else if s.sf.stop then .again else .left) s

/-- The stopped loop entered: the wake synthesis, once, then the first tick (spec 41 R109). -/
def enterStoppedLoop (run : Runner) (s : State) : Run TickEnd :=
  (wakeSynthesis run s).andThen fun _ s => idleTick run s

/-- What a pass's result does: in an `execute()`, true ends the activation and false goes back to L (spec 40 R80); an
`ExecuteSpecial()` invoked by itself returns it. -/
def endPass (inn : IdleIn) (stopLoop : Bool) (s : State) : State :=
  match inn with
  | .loop => if stopLoop then s.pop else s.setTop .fetch
  | .special | .port => s.pop.returns (.bool stopLoop)

/-- The break check that ends a pass (spec 41 R108). -/
def finishPass (run : Runner) (inn : IdleIn) (s : State) : Run Unit :=
  (breakCheck run s).andThen fun b s => .ok () (endPass inn b s)

/-- The branches after the STOP branch, R105 to R107; under `chain` a pass that took the STOP branch does none of them. -/
def afterStopBranches (run : Runner) (s : State) : Run Unit :=
  match s.cfg.scEval with
  | .sequential => interruptBranches run false (traceArmBranch s)
  | .chain => .ok () s

/-- How things go on after an idle tick (spec 41 R104, R109). -/
def afterTick (run : Runner) (inn : IdleIn) (e : TickEnd) (s : State) : Run Unit :=
  match inn with
  | .port =>
    match e with
    | .again => .ok () (s.setTop (.idle .port))
    | .left => .ok () (s.pop.returns (.bool false))
    | .broke => .ok () (s.pop.returns (.bool true))
  | .loop | .special =>
    match e with
    | .again => .ok () (s.setTop (.idle inn))
    | .left => (afterStopBranches run s).andThen fun _ s => finishPass run inn s
    | .broke => .ok () (endPass inn true (s.putFlag .brk false))

/-- A pass from the STOP branch on. -/
def passFromStop (run : Runner) (inn : IdleIn) (s : State) : Run Unit :=
  if s.sf.stop then (enterStoppedLoop run s).andThen fun e s => afterTick run inn e s
  else (afterStopBranches run s).andThen fun _ s => finishPass run inn s

/-- A non-nested pass under `sequential` (spec 41 R100). -/
def sequentialPass (run : Runner) (inn : IdleIn) (s : State) : Run Unit :=
  (endOfCycleBranch run s).andThen fun handled s =>
    if handled then .ok () (endPass inn true s)
    else (traceFireBranch run s).andThen fun _ s => passFromStop run inn s

/-- A non-nested pass under `chain`: the first branch whose condition holds, and only that one (spec 41 R115). -/
def chainPass (run : Runner) (inn : IdleIn) (s : State) : Run Unit :=
  if s.sf.eoc then
    (endOfCycleBranch run s).andThen fun handled s =>
      if handled then .ok () (endPass inn true s) else finishPass run inn s
  else if traceFires s then (traceFireBranch run s).andThen fun _ s => finishPass run inn s
  else if s.sf.stop then passFromStop run inn s
  else if traceArms s then finishPass run inn (traceArmBranch s)
  else (interruptBranches run false s).andThen fun _ s => finishPass run inn s

/-- One pass of the special-condition engine, `ExecuteSpecial()` (spec 41 R100, R101). -/
def specialPass (run : Runner) (inn : IdleIn) (s : State) : Run Unit :=
  if s.nested then finishPass run inn s
  else
    match s.cfg.scEval with
    | .sequential => sequentialPass run inn s
    | .chain => chainPass run inn s

/-- ExecuteSpecial: a pass by itself; it returns its result at the port, at once or when its stopped loop has ended. -/
def opExecuteSpecial (run : Runner) (s : State) : Run Unit :=
  specialPass run .special (s.push (.idle .special))

/-- ExecuteStoppedLoop: the loop by itself; it returns its result at the port when it has ended. -/
def opExecuteStoppedLoop (run : Runner) (s : State) : Run Unit :=
  (enterStoppedLoop run (s.push (.idle .port))).andThen fun e s => afterTick run .port e s

/-- BreakCheck. -/
def opBreakCheck (run : Runner) (s : State) : Run Unit :=
  (breakCheck run s).andThen fun b s => .ok () (s.returns (.bool b))

/-- SetFlag (spec 41 R112). -/
def opSetFlag (f : Flag) (s : State) : Run Unit :=
  .ok () (s.putFlag f true)

/-- ClearFlag (spec 41 R112). -/
def opClearFlag (f : Flag) (s : State) : Run Unit :=
  .ok () (s.putFlag f false)

/-- EnterStop (spec 41 R113). -/
def opEnterStop (s : State) : Run Unit :=
  .ok () s.enterStop

end Sys2Proof.Machine
end

