-- ==== Sys2Proof/Machine/Loop.lean ====
section
/-! DEFINITION. The interpreter loop (spec 40 R80 to R87): one iteration, steps A to E, or one idle tick. -/

namespace Sys2Proof.Machine

/-- The instruction in a word's OpTable slot: `dispatch` where the environment has injected a handler for it, else the
default table's (log 12). -/
def slotInstr (s : State) (op : Half) : Instr :=
  if s.prepared (.handler op) then .dispatch op else decodeWord op

/-- Step A: the break-location query (spec 40 R82). -/
def stepA (run : Runner) (s : State) : Run Unit :=
  if s.nested then .ok () s
  else
    (envAsk run (.isBreakLocation s.regs.pc) s).andThen fun hit s =>
      if hit then envTell run .onInstructionBreak s else .ok () s

/-- Steps B and C: the word fetched and its slot run; a fault of the fetch is processed and step C skipped (spec 40 R83,
R84, 60 R170). -/
def stepBC (disp run : Runner) (s : State) : Run Unit :=
  match memReadHalf s.regs.pc s with
  | .ok op s => disp (slotInstr s op) s
  | .abort m s => memoryFault run m s
  | .unfinished => .unfinished
  | .fault e => .fault e
  | .refused e => .refused e

/-- SLOW_MASK (spec 00 R5). -/
def slowMask (s : State) : Nat :=
  2 ^ s.cfg.slowBits - 1

/-- Step D: housekeeping (spec 40 R85). -/
def stepD (run : Runner) (s : State) : Run Unit :=
  (envTell run (.onCycle false) s).andThen fun _ s =>
    if s.nested then .ok () s
    else
      let s := { s with iter := s.iter + 1 }
      if s.iter &&& slowMask s = 0 then envTell run (.onCycleSlowly false) s else .ok () s

/-- Step E: a pass if some flag is set, else back to L (spec 40 R86). -/
def stepE (run : Runner) (s : State) : Run Unit :=
  if s.sf.any then specialPass run .loop s else .ok () (s.setTop .fetch)

/-- One iteration from L: steps A to E (spec 40 R80). -/
def iteration (disp run : Runner) (s : State) : Run Unit :=
  (stepA run s).andThen fun _ s =>
    (stepBC disp run s).andThen fun _ s => (stepD run s).andThen fun _ s => stepE run s

/-- The innermost activation goes on: an iteration, step E alone where `execute()` was entered with STOP set (spec 40 R81),
or an idle tick (41 R109). With none in progress the block waits. -/
def loopStep (disp run : Runner) (s : State) : Run Unit :=
  match s.acts with
  | [] => .ok () s
  | .fetch :: _ => iteration disp run s
  | .check :: _ => stepE run s
  | .idle inn :: _ => (idleTick run s).andThen fun e s => afterTick run inn e s

/-- execute(): refused while an activation is in progress, unless NESTED = 1 (spec 40 R98); it starts an activation, at
step E if STOP is set (40 R80, R81). -/
def opExecute (s : State) : Run Unit :=
  if s.acts ≠ [] ∧ s.nested = false then .refused .reentry
  else .ok () (s.push (if s.sf.stop then .check else .fetch))

end Sys2Proof.Machine
end

