-- ==== Sys2Proof/Machine/Registers.lean ====
section
/-! DEFINITION. The status-word operations, register access and persistence (spec 43), the hook registry (42), the event
ports (40 R91 to R96), the cycle count (40 R97), the exception ports (60) and reset (70). -/

namespace Sys2Proof.Machine

/-- SetPC as a port (spec 40 R88). -/
def opSetPC (run : Runner) (addr : Word) (s : State) : Run Unit :=
  setPC run addr s

/-- PackSR (spec 43 R138). -/
def opPackSR (s : State) : Run Unit :=
  .ok () s.packSR

/-- SetSR (spec 43 R139). -/
def opSetSR (value : Half) (s : State) : Run Unit :=
  .ok () (s.setSR value)

/-- GetSR (spec 43 R140). -/
def opGetSR (s : State) : Run Unit :=
  .ok () (s.packSR.returns (.half s.packSR.regs.sr))

/-- getRegister (spec 43 R142). -/
def opGetRegister (id : Nat) (s : State) : Run Unit :=
  match RegId.ofNumber id with
  | none => .refused .unknownRegister
  | some .sr => .ok () (s.packSR.returns (.word (s.packSR.regs.cell .sr)))
  | some r => .ok () (s.returns (.word (s.regs.cell r)))

/-- setRegister (spec 43 R143): PC through SetPC, SR through SetSR, A[7] with its hooks, every other cell plainly. -/
def opSetRegister (run : Runner) (id : Nat) (value : Word) (s : State) : Run Unit :=
  match RegId.ofNumber id with
  | none => .refused .unknownRegister
  | some .pc => (setPC run value s).noAbort
  | some .sr => .ok () (s.setSR (value.extractLsb' 0 16))
  | some (.a n) =>
    let s := { s with regs := s.regs.putCell (.a n) value }
    if n = 7 then eventNewSP run (freeRecord s) s else .ok () s
  | some r => .ok () { s with regs := s.regs.putCell r value }

/-- getRegisters (spec 43 R144). -/
def opGetRegisters (s : State) : Run Unit :=
  .ok () (s.packSR.returns (.regs s.packSR.regs))

/-- The PC validated and installed and the new-SP hooks run, as after loading a register set (spec 43 R145, R147). -/
def contextSwitch (run : Runner) (pc : Word) (s : State) : Run Unit :=
  ((setPC run pc s).noAbort).andThen fun _ s => eventNewSP run (freeRecord s) s

/-- The register file of a record, its packed word the authority for the fields and the PC not yet installed (spec 43
R145). -/
def loadRecord (r old : RegFile) : RegFile :=
  ({ r with pc := old.pc, sr := r.sr &&& srMask } : RegFile).unpack (r.sr &&& srMask)

/-- setRegisters (spec 43 R145). -/
def opSetRegisters (run : Runner) (regs : RegFile) (s : State) : Run Unit :=
  contextSwitch run regs.pc { s with regs := loadRecord regs s.regs }

/-- A file's bytes. -/
def State.file (s : State) (f : FileId) : Option (List Byte) :=
  (s.files.find? fun e => e.1 = f).map fun e => e.2

/-- A file written: its old content gone. -/
def State.putFile (s : State) (f : FileId) (bytes : List Byte) : State :=
  { s with files := (f, bytes) :: s.files.filter fun e => e.1 ≠ f }

/-- save (spec 43 R146; log 24). -/
def opSave (file : FileId) (s : State) : Run Unit :=
  .ok () (s.packSR.putFile file s.packSR.regs.blob)

/-- load (spec 43 R147; log 24): every cell of the blob, SR packed from the loaded fields, then the PC as loaded through
SetPC. PC is among the cells written first, so its hooks and validation already see it (DEDUCED, log 38). -/
def opLoad (run : Runner) (file : FileId) (s : State) : Run Unit :=
  match s.file file with
  | none => .refused .noFile
  | some bytes =>
    match s.regs.ofBlob bytes with
    | none => .refused .badBlob
    | some r => contextSwitch run r.pc { s with regs := { r with sr := r.pack } }

/-- installHook (spec 42 R121, R123). -/
def opInstallHook (kind : HookKind) (key : Nat) (cb : Callback) (s : State) : Run Unit :=
  match HookKey.of kind key with
  | none => .refused .badHookKey
  | some k => if k ∈ s.busy then .refused .hookListBusy else .ok () { s with hooks := s.hooks ++ [(k, cb)] }

/-- removeHook (spec 42 R122, R123): the first exact match, or nothing. While the list is being invoked it is refused, also
where the callback is not in the list (DESIGN CHOICE, log 43). -/
def opRemoveHook (kind : HookKind) (key : Nat) (cb : Callback) (s : State) : Run Unit :=
  match HookKey.of kind key with
  | none => .refused .badHookKey
  | some k => if k ∈ s.busy then .refused .hookListBusy else .ok () { s with hooks := s.hooks.erase (k, cb) }

/-- An event port that returns the OR of the replies (spec 42 R125). -/
def eventPort (run : Runner) (key : HookKey) (ev : EventRecord) (s : State) : Run Unit :=
  (invokeHooks run key (.event ev) s).andThen fun r s => .ok () (s.returns (.bool r))

/-- EventJSR (spec 40 R91). -/
def opEventJSR (run : Runner) (ev : EventRecord) (s : State) : Run Unit :=
  eventPort run .jsr ev s

/-- EventJSRInd (spec 40 R92). -/
def opEventJSRInd (run : Runner) (ev : EventRecord) (s : State) : Run Unit :=
  eventPort run .jsrInd ev s

/-- EventLINK (spec 40 R93). -/
def opEventLINK (run : Runner) (ev : EventRecord) (s : State) : Run Unit :=
  eventLINK run ev s

/-- EventRTE (spec 40 R94). -/
def opEventRTE (run : Runner) (ev : EventRecord) (s : State) : Run Unit :=
  eventPort run .rte ev s

/-- EventRTS (spec 40 R95). -/
def opEventRTS (run : Runner) (ev : EventRecord) (s : State) : Run Unit :=
  eventPort run .rts ev s

/-- EventNewSP (spec 40 R96). -/
def opEventNewSP (run : Runner) (ev : EventRecord) (s : State) : Run Unit :=
  eventNewSP run ev s

/-- cycleCount (spec 40 R97). -/
def opCycleCount (s : State) : Run Unit :=
  .ok () (s.returns (.word s.cyc))

/-- ProcessException and processException (spec 60 R160, R173). -/
def opProcessException (run : Runner) (vector : Nat) (s : State) : Run Unit :=
  processException run vector s

/-- ProcessInterrupt (spec 60 R174). -/
def opProcessInterrupt (run : Runner) (level : Nat) (s : State) : Run Unit :=
  processInterrupt run level s

/-- ProcessIllegalInstruction (spec 40 R89). -/
def opProcessIllegalInstruction (run : Runner) (opcode : Half) (s : State) : Run Unit :=
  processIllegalInstruction run opcode s

/-- BusError (spec 60 R168). -/
def opBusError (run : Runner) (addr : Word) (size : AccessSize) (dir : Dir) (s : State) : Run Unit :=
  memoryFault run { kind := .bus, addr := addr, size := size, dir := dir } s

/-- AddressError (spec 60 R169). -/
def opAddressError (run : Runner) (addr : Word) (size : AccessSize) (dir : Dir) (s : State) : Run Unit :=
  memoryFault run { kind := .address, addr := addr, size := size, dir := dir } s

/-- Where reset may be called (spec 70 R200): NESTED = 0, and no `execute()` in progress or from a session callback; never
from an opcode handler. -/
def resetAllowed (s : State) : Bool :=
  !s.nested && s.ctx != .handler && (s.acts == [] || s.ctx == .session)

/-- The register file of a hardware reset, PC not yet installed (spec 70 R201): D, A[0..6], USP and SSP keep their
values. -/
def hardwareResetFile (r : RegFile) (sp0 : Word) : RegFile :=
  { r with
    a := r.a.set 7 sp0
    sr := 0x2700
    t1 := false
    t0 := false
    s := true
    m := false
    imask := 7
    x := false
    n := false
    z := false
    v := false
    c := false
    vbr := 0
    sfc := 0
    dfc := 0
    fpcr := 0
    fpsr := 0
    fpiar := 0
    stopped := false }

/-- `reset(true)` (spec 70 R201). -/
def hardwareReset (run : Runner) (s : State) : Run Unit :=
  (memReadFullWord s.cfg.romBase s).andThen fun sp0 s =>
    (memReadFullWord (s.cfg.romBase + 4) s).andThen fun pc0 s =>
      setPC run pc0
        { s with
          cyc := 0
          lta := none
          frec := none
          iter := 0
          regs := hardwareResetFile s.regs sp0
          sf := SpecialFlags.none }

/-- `reset(false)` (spec 70 R202). -/
def softReset (run : Runner) (s : State) : Run Unit :=
  checkNewPC run s.regs.pc { s with cyc := 0, lta := none }

/-- reset(hardwareReset) (spec 70 R200). -/
def opReset (run : Runner) (hardware : Bool) (s : State) : Run Unit :=
  if resetAllowed s then (if hardware then hardwareReset run s else softReset run s).noAbort
  else .refused .resetRefused

end Sys2Proof.Machine
end

