-- ==== Sys2Proof/Machine/Invoke.lean ====
section
/-! DEFINITION. How an operation invoked inside another is carried out: every instruction over a Runner, and the runs of
`execute()` that a callback waits for (spec 40 R87, 42 R123). -/

namespace Sys2Proof.Machine

/-- The default OpTable's handler of a word (log 12): its row's, and the illegal handler in every other slot (spec 40 R84). -/
def defaultHandler (run : Runner) (op : Half) (s : State) : Run Unit :=
  match decodeWord op with
  | .illegalLineA rest => opIllegalLineA run rest s
  | .illegalLineF rest => opIllegalLineF run rest s
  | .illegalOther line rest => opIllegalOther run line rest s
  | .nop => opNop run s
  | .stop => opStop run s
  | .rte => opRte run s
  | .rts => opRts run s
  | .trapv => opTrapv run s
  | .trap n => opTrap run n s
  | .link an => opLink run an s
  | .jsr eaMode eaReg => opJsr run eaMode eaReg s
  | .illegal => opIllegal run s
  | .moveWAbsLD0 => opMoveWAbsLD0 run s
  | _ => illegalHandler run op s

/-- DISPATCH: the word's OpTable slot called and its cost counted (spec 40 R84). -/
def opDispatch (run : Runner) (op : Half) (s : State) : Run Unit :=
  if s.prepared (.handler op) then injectedHandler run op s else defaultHandler run op s

/-- Every instruction over a Runner. -/
def operate (run : Runner) (i : Instr) (s : State) : Run Unit :=
  match i with
  | .dispatch op => opDispatch run op s
  | .illegalLineA rest => opIllegalLineA run rest s
  | .illegalLineF rest => opIllegalLineF run rest s
  | .illegalOther line rest => opIllegalOther run line rest s
  | .nop => opNop run s
  | .stop => opStop run s
  | .rte => opRte run s
  | .rts => opRts run s
  | .trapv => opTrapv run s
  | .trap n => opTrap run n s
  | .link an => opLink run an s
  | .jsr eaMode eaReg => opJsr run eaMode eaReg s
  | .illegal => opIllegal run s
  | .moveWAbsLD0 => opMoveWAbsLD0 run s
  | .reset hardware => opReset run hardware s
  | .execute => opExecute s
  | .executeSpecial => opExecuteSpecial run s
  | .executeStoppedLoop => opExecuteStoppedLoop run s
  | .breakCheck => opBreakCheck run s
  | .setFlag f => opSetFlag f s
  | .clearFlag f => opClearFlag f s
  | .enterStop => opEnterStop s
  | .processException vector => opProcessException run vector s
  | .processInterrupt level => opProcessInterrupt run level s
  | .processIllegalInstruction opcode => opProcessIllegalInstruction run opcode s
  | .busError addr size dir => opBusError run addr size dir s
  | .addressError addr size dir => opAddressError run addr size dir s
  | .setPC addr => opSetPC run addr s
  | .packSR => opPackSR s
  | .setSR value => opSetSR value s
  | .getSR => opGetSR s
  | .getRegister id => opGetRegister id s
  | .setRegister id value => opSetRegister run id value s
  | .getRegisters => opGetRegisters s
  | .setRegisters regs => opSetRegisters run regs s
  | .save file => opSave file s
  | .load file => opLoad run file s
  | .installHook kind key cb => opInstallHook kind key cb s
  | .removeHook kind key cb => opRemoveHook kind key cb s
  | .eventJSR ev => opEventJSR run ev s
  | .eventJSRInd ev => opEventJSRInd run ev s
  | .eventLINK ev => opEventLINK run ev s
  | .eventRTE ev => opEventRTE run ev s
  | .eventRTS ev => opEventRTS run ev s
  | .eventNewSP ev => opEventNewSP run ev s
  | .cycleCount => opCycleCount s

/-- The activations started above a height run to their end, unfinished after so many iterations (log 10). -/
def drive (run : Runner) (height : Nat) : Nat → State → Run Unit
  | 0, s => if s.acts.length ≤ height then .ok () s else .unfinished
  | n + 1, s =>
    if s.acts.length ≤ height then .ok () s
    else (loopStep (operate run) run s).andThen fun _ s => drive run height n s

/-- How a callback's operations are carried out: in full, with the run of an `execute()` it starts, and with callbacks of
callbacks nested at most so deep (log 11). -/
def invoke : Nat → Runner
  | 0, _, _ => .fault .callbackDepth
  | n + 1, i, s => (operate (invoke n) i s).andThen fun _ s' => drive (invoke n) s.acts.length s'.bound s'

/-- The runner of a state: each level of nesting takes one prepared answer at least, so their number is deep enough. -/
def State.runner (s : State) : Runner :=
  invoke s.answers.length

end Sys2Proof.Machine
end

