-- ==== Sys2Proof/Machine/Meanings.lean ====
section
/-! DEFINITION. The meaning of each instruction: its operation, with the state's runner for what callbacks invoke. One
definition per row of spec/opcode_table.json. -/

namespace Sys2Proof.Machine

/-- DISPATCH: any opcode word, through its OpTable slot (40 R84). -/
def execDispatch (op : Half) (s : State) : Host.Outcome State Fault Refusal :=
  (opDispatch s.runner op s).outcome s

/-- ILLEGAL_LINE_A: a word 0xAxxx whose slot is the illegal handler (40 R89). -/
def execIllegalLineA (rest : BitVec 12) (s : State) : Host.Outcome State Fault Refusal :=
  (opIllegalLineA s.runner rest s).outcome s

/-- ILLEGAL_LINE_F: a word 0xFxxx whose slot is the illegal handler (40 R89). -/
def execIllegalLineF (rest : BitVec 12) (s : State) : Host.Outcome State Fault Refusal :=
  (opIllegalLineF s.runner rest s).outcome s

/-- ILLEGAL_OTHER: any other word whose slot is the illegal handler (40 R89). -/
def execIllegalOther (line : BitVec 4) (rest : BitVec 12) (s : State) : Host.Outcome State Fault Refusal :=
  (opIllegalOther s.runner line rest s).outcome s

/-- NOP 0x4E71 (30 R77). -/
def execNop (s : State) : Host.Outcome State Fault Refusal :=
  (opNop s.runner s).outcome s

/-- STOP 0x4E72, its immediate an extension word (60 R181). -/
def execStop (s : State) : Host.Outcome State Fault Refusal :=
  (opStop s.runner s).outcome s

/-- RTE 0x4E73 (60 R180). -/
def execRte (s : State) : Host.Outcome State Fault Refusal :=
  (opRte s.runner s).outcome s

/-- RTS 0x4E75 (40 R95). -/
def execRts (s : State) : Host.Outcome State Fault Refusal :=
  (opRts s.runner s).outcome s

/-- TRAPV 0x4E76 (60 R173). -/
def execTrapv (s : State) : Host.Outcome State Fault Refusal :=
  (opTrapv s.runner s).outcome s

/-- TRAP #n 0x4E40 + n (60 R173). -/
def execTrap (n : BitVec 4) (s : State) : Host.Outcome State Fault Refusal :=
  (opTrap s.runner n s).outcome s

/-- LINK An 0x4E50 + n, its displacement an extension word (40 R93). -/
def execLink (an : BitVec 3) (s : State) : Host.Outcome State Fault Refusal :=
  (opLink s.runner an s).outcome s

/-- JSR ea 0x4E80 + ea (40 R91). -/
def execJsr (eaMode : BitVec 3) (eaReg : BitVec 3) (s : State) : Host.Outcome State Fault Refusal :=
  (opJsr s.runner eaMode eaReg s).outcome s

/-- ILLEGAL 0x4AFC (40 R89). -/
def execIllegal (s : State) : Host.Outcome State Fault Refusal :=
  (opIllegal s.runner s).outcome s

/-- MOVE.W (xxx).L, D0 0x3039, its address in two extension words (95 section 3.1). -/
def execMoveWAbsLD0 (s : State) : Host.Outcome State Fault Refusal :=
  (opMoveWAbsLD0 s.runner s).outcome s

/-- reset(hardwareReset) (70 R200). -/
def execReset (hardware : Bool) (s : State) : Host.Outcome State Fault Refusal :=
  (opReset s.runner hardware s).outcome s

/-- execute() (40 R80). -/
def execExecute (s : State) : Host.Outcome State Fault Refusal :=
  (opExecute s).outcome s

/-- ExecuteSpecial() (41 R100). -/
def execExecuteSpecial (s : State) : Host.Outcome State Fault Refusal :=
  (opExecuteSpecial s.runner s).outcome s

/-- ExecuteStoppedLoop() (41 R109). -/
def execExecuteStoppedLoop (s : State) : Host.Outcome State Fault Refusal :=
  (opExecuteStoppedLoop s.runner s).outcome s

/-- BreakCheck() (41 R108). -/
def execBreakCheck (s : State) : Host.Outcome State Fault Refusal :=
  (opBreakCheck s.runner s).outcome s

/-- SetFlag(f) (41 R112). -/
def execSetFlag (f : Flag) (s : State) : Host.Outcome State Fault Refusal :=
  (opSetFlag f s).outcome s

/-- ClearFlag(f) (41 R112). -/
def execClearFlag (f : Flag) (s : State) : Host.Outcome State Fault Refusal :=
  (opClearFlag f s).outcome s

/-- EnterStop() (41 R113). -/
def execEnterStop (s : State) : Host.Outcome State Fault Refusal :=
  (opEnterStop s).outcome s

/-- ProcessException(v) and the exposed processException(v) (60 R160, R173). -/
def execProcessException (vector : Nat) (s : State) : Host.Outcome State Fault Refusal :=
  (opProcessException s.runner vector s).outcome s

/-- ProcessInterrupt(level) (60 R174). -/
def execProcessInterrupt (level : Nat) (s : State) : Host.Outcome State Fault Refusal :=
  (opProcessInterrupt s.runner level s).outcome s

/-- ProcessIllegalInstruction(opcode) (40 R89). -/
def execProcessIllegalInstruction (opcode : Half) (s : State) : Host.Outcome State Fault Refusal :=
  (opProcessIllegalInstruction s.runner opcode s).outcome s

/-- BusError(addr, size, dir) (60 R168). -/
def execBusError (addr : Word) (size : AccessSize) (dir : Dir) (s : State) : Host.Outcome State Fault Refusal :=
  (opBusError s.runner addr size dir s).outcome s

/-- AddressError(addr, size, dir) (60 R169). -/
def execAddressError (addr : Word) (size : AccessSize) (dir : Dir) (s : State) : Host.Outcome State Fault Refusal :=
  (opAddressError s.runner addr size dir s).outcome s

/-- SetPC(addr) (40 R88). -/
def execSetPC (addr : Word) (s : State) : Host.Outcome State Fault Refusal :=
  (opSetPC s.runner addr s).outcome s

/-- PackSR() (43 R138). -/
def execPackSR (s : State) : Host.Outcome State Fault Refusal :=
  (opPackSR s).outcome s

/-- SetSR(value) (43 R139). -/
def execSetSR (value : Half) (s : State) : Host.Outcome State Fault Refusal :=
  (opSetSR value s).outcome s

/-- GetSR() (43 R140). -/
def execGetSR (s : State) : Host.Outcome State Fault Refusal :=
  (opGetSR s).outcome s

/-- getRegister(id) (43 R142); the numbers are those of 30 R71. -/
def execGetRegister (id : Nat) (s : State) : Host.Outcome State Fault Refusal :=
  (opGetRegister id s).outcome s

/-- setRegister(id, value) (43 R143). -/
def execSetRegister (id : Nat) (value : Word) (s : State) : Host.Outcome State Fault Refusal :=
  (opSetRegister s.runner id value s).outcome s

/-- getRegisters() (43 R144). -/
def execGetRegisters (s : State) : Host.Outcome State Fault Refusal :=
  (opGetRegisters s).outcome s

/-- setRegisters(regs) (43 R145). -/
def execSetRegisters (regs : RegFile) (s : State) : Host.Outcome State Fault Refusal :=
  (opSetRegisters s.runner regs s).outcome s

/-- save(file) (43 R146). -/
def execSave (file : FileId) (s : State) : Host.Outcome State Fault Refusal :=
  (opSave file s).outcome s

/-- load(file) (43 R147). -/
def execLoad (file : FileId) (s : State) : Host.Outcome State Fault Refusal :=
  (opLoad s.runner file s).outcome s

/-- installHook(kind, key, cb) (42 R121). -/
def execInstallHook (kind : HookKind) (key : Nat) (cb : Callback) (s : State) : Host.Outcome State Fault Refusal :=
  (opInstallHook kind key cb s).outcome s

/-- removeHook(kind, key, cb) (42 R122). -/
def execRemoveHook (kind : HookKind) (key : Nat) (cb : Callback) (s : State) : Host.Outcome State Fault Refusal :=
  (opRemoveHook kind key cb s).outcome s

/-- EventJSR(ev) (40 R91). -/
def execEventJSR (ev : EventRecord) (s : State) : Host.Outcome State Fault Refusal :=
  (opEventJSR s.runner ev s).outcome s

/-- EventJSRInd(ev) (40 R92). -/
def execEventJSRInd (ev : EventRecord) (s : State) : Host.Outcome State Fault Refusal :=
  (opEventJSRInd s.runner ev s).outcome s

/-- EventLINK(ev) (40 R93). -/
def execEventLINK (ev : EventRecord) (s : State) : Host.Outcome State Fault Refusal :=
  (opEventLINK s.runner ev s).outcome s

/-- EventRTE(ev) (40 R94). -/
def execEventRTE (ev : EventRecord) (s : State) : Host.Outcome State Fault Refusal :=
  (opEventRTE s.runner ev s).outcome s

/-- EventRTS(ev) (40 R95). -/
def execEventRTS (ev : EventRecord) (s : State) : Host.Outcome State Fault Refusal :=
  (opEventRTS s.runner ev s).outcome s

/-- EventNewSP(ev) (40 R96). -/
def execEventNewSP (ev : EventRecord) (s : State) : Host.Outcome State Fault Refusal :=
  (opEventNewSP s.runner ev s).outcome s

/-- cycleCount() (40 R97). -/
def execCycleCount (s : State) : Host.Outcome State Fault Refusal :=
  (opCycleCount s).outcome s

end Sys2Proof.Machine
end

