-- ==== Sys2Proof/Machine/Dispatch.lean ====
section
/-! DEFINITION. One arm per instruction: the call of its meaning. -/

namespace Sys2Proof.Machine

def exec (i : Instr) (s : State) : Host.Outcome State Fault Refusal :=
  match i with
  | .dispatch op => Sys2Proof.Machine.execDispatch op s
  | .illegalLineA rest => Sys2Proof.Machine.execIllegalLineA rest s
  | .illegalLineF rest => Sys2Proof.Machine.execIllegalLineF rest s
  | .illegalOther line rest => Sys2Proof.Machine.execIllegalOther line rest s
  | .nop => Sys2Proof.Machine.execNop s
  | .stop => Sys2Proof.Machine.execStop s
  | .rte => Sys2Proof.Machine.execRte s
  | .rts => Sys2Proof.Machine.execRts s
  | .trapv => Sys2Proof.Machine.execTrapv s
  | .trap n => Sys2Proof.Machine.execTrap n s
  | .link an => Sys2Proof.Machine.execLink an s
  | .jsr eaMode eaReg => Sys2Proof.Machine.execJsr eaMode eaReg s
  | .illegal => Sys2Proof.Machine.execIllegal s
  | .moveWAbsLD0 => Sys2Proof.Machine.execMoveWAbsLD0 s
  | .reset hardware => Sys2Proof.Machine.execReset hardware s
  | .execute => Sys2Proof.Machine.execExecute s
  | .executeSpecial => Sys2Proof.Machine.execExecuteSpecial s
  | .executeStoppedLoop => Sys2Proof.Machine.execExecuteStoppedLoop s
  | .breakCheck => Sys2Proof.Machine.execBreakCheck s
  | .setFlag f => Sys2Proof.Machine.execSetFlag f s
  | .clearFlag f => Sys2Proof.Machine.execClearFlag f s
  | .enterStop => Sys2Proof.Machine.execEnterStop s
  | .processException vector => Sys2Proof.Machine.execProcessException vector s
  | .processInterrupt level => Sys2Proof.Machine.execProcessInterrupt level s
  | .processIllegalInstruction opcode => Sys2Proof.Machine.execProcessIllegalInstruction opcode s
  | .busError addr size dir => Sys2Proof.Machine.execBusError addr size dir s
  | .addressError addr size dir => Sys2Proof.Machine.execAddressError addr size dir s
  | .setPC addr => Sys2Proof.Machine.execSetPC addr s
  | .packSR => Sys2Proof.Machine.execPackSR s
  | .setSR value => Sys2Proof.Machine.execSetSR value s
  | .getSR => Sys2Proof.Machine.execGetSR s
  | .getRegister id => Sys2Proof.Machine.execGetRegister id s
  | .setRegister id value => Sys2Proof.Machine.execSetRegister id value s
  | .getRegisters => Sys2Proof.Machine.execGetRegisters s
  | .setRegisters regs => Sys2Proof.Machine.execSetRegisters regs s
  | .save file => Sys2Proof.Machine.execSave file s
  | .load file => Sys2Proof.Machine.execLoad file s
  | .installHook kind key cb => Sys2Proof.Machine.execInstallHook kind key cb s
  | .removeHook kind key cb => Sys2Proof.Machine.execRemoveHook kind key cb s
  | .eventJSR ev => Sys2Proof.Machine.execEventJSR ev s
  | .eventJSRInd ev => Sys2Proof.Machine.execEventJSRInd ev s
  | .eventLINK ev => Sys2Proof.Machine.execEventLINK ev s
  | .eventRTE ev => Sys2Proof.Machine.execEventRTE ev s
  | .eventRTS ev => Sys2Proof.Machine.execEventRTS ev s
  | .eventNewSP ev => Sys2Proof.Machine.execEventNewSP ev s
  | .cycleCount => Sys2Proof.Machine.execCycleCount s

end Sys2Proof.Machine
end

