-- ==== Sys2Proof/Machine/Fetch.lean ====
section
/-! DEFINITION. What a step does around `exec`: the host's pending calls (spec 00 R7, 70 R212; log 9), then the loop; and
how an instruction is placed for the next step (log 3). -/

namespace Sys2Proof.Machine

/-- Who the host's pending calls are made by: while an activation is in progress they may come at any moment, outside a
safe point (spec 70 R212). -/
def portCtx (s : State) : Ctx :=
  if s.acts = [] then .host else .query

/-- An instruction run by `exec`. -/
def execRun (ex : Instr → State → Host.Outcome State Fault Refusal) : Runner :=
  fun i s => Run.ofOutcome s (ex i s)

/-- The loop's step at the top level, every instruction run by `exec`. -/
def loopFrom (ex : Instr → State → Host.Outcome State Fault Refusal) (s : State) : Host.Outcome State Fault Refusal :=
  (loopStep (execRun ex) s.runner s).outcome s

/-- The host's pending call if there is one, else the loop. A call that is not finished stays pending (log 10). -/
def stepFrom (ex : Instr → State → Host.Outcome State Fault Refusal) (s : State) : Host.Outcome State Fault Refusal :=
  match s.port with
  | [] => loopFrom ex s
  | i :: rest =>
    match (portCtx s).refusesCall i.val with
    | some r => .refused r
    | none => (execRun ex i.val { s with port := rest }).outcome s

/-- Bytes stored from an address on. -/
def storeBytes : List Byte → Word → State → State
  | [], _, s => s
  | b :: t, a, s => storeBytes t (a + 1) (s.setByte a b)

/-- The instruction in a table row's bits stored at PC and an `execute()` started, so that the next step fetches and runs
it: no call of the host pending and no answer of the environment prepared that would change what is fetched. The policy is
replaced only where it would reject the fetch. A row without bits stores a word of zeros. -/
def placeWord (s : State) (_nbits w : Nat) : State :=
  let s := storeBytes (tableBytes w) s.regs.pc s
  let policy := if s.cfg.policy.verdict s.regs.pc .two .read = none then s.cfg.policy else MemPolicy.permissive
  { s with acts := [.fetch], port := [], answers := [], cfg := { s.cfg with policy := policy } }

end Sys2Proof.Machine
end

