-- ==== Sys2Proof/Machine/Step.lean ====
section
/-! DEFINITION. One step of the machine, and where an instruction is placed for the next step to run it. -/

namespace Sys2Proof.Machine

/-- One step: the host's next pending call if there is one, else the loop goes on (Machine/Fetch.lean). -/
def step (s : State) : Host.Outcome State Fault Refusal :=
  stepFrom exec s

/-- The state with an instruction stored where the next step fetches it, and an `execute()` in progress to fetch it
(Machine/Fetch.lean; log 3). -/
def State.withFetchWord (s : State) (nbits w : Nat) : State :=
  placeWord s nbits w

end Sys2Proof.Machine
end

