-- ==== Sys2Proof/Safety.lean ====
section
/-! DEFINITION. The terms claims use: an environment that only observes and replies, what an access needs, what an exception
entry leaves, what the branches of a pass and an idle tick leave, and the invariants. -/

namespace Sys2Proof.Machine

/-! ## The environment -/

/-- The environment only observes and replies: no prepared answer does anything to the machine, and none is a memory fault
of the new-PC validator or of an injected handler. Replies are arbitrary. -/
abbrev State.Observing (s : State) : Prop :=
  ∀ e ∈ s.answers, e.2.acts = [] ∧ e.2.body = [] ∧ e.2.fault = none

/-- No callback does anything to the machine; but a reply of the new-PC validator may be a memory fault. -/
abbrev State.Silent (s : State) : Prop :=
  ∀ e ∈ s.answers, e.2.acts = []

/-- The calls made one after the other, each taking its answer. -/
def State.calledAll (s : State) (cs : List EnvCall) : State :=
  cs.foldl State.called s

/-- The boolean replies to calls made one after the other. -/
def repliesFrom : List EnvCall → List (EnvCall × Answer) → List Bool
  | [], _ => []
  | c :: cs, as => (firstAnswer c as).yes :: repliesFrom cs (dropAnswer c as)

/-- The boolean replies a state's environment would give to calls made one after the other. -/
def State.replies (s : State) (cs : List EnvCall) : List Bool :=
  repliesFrom cs s.answers

/-- The calls that an event makes to its hook list: every callback, in order of registration (spec 42 R123). -/
def State.hookCalls (s : State) (key : HookKey) (arg : HookArg) : List EnvCall :=
  (s.hookList key).map fun h => .hook h key arg

/-- Some hook of the vector answers "handled" (spec 42 R124). -/
def State.handles (s : State) (vector : Nat) : Bool :=
  (s.replies (s.hookCalls (.exception vector) (.vector vector))).any id

/-- The memory fault in which the validation of a new PC ends, the new-PC hooks having been called (spec 40 R88). -/
def State.validatorFault (s : State) (addr : Word) : Option MemFault :=
  ((s.calledAll (s.hookCalls .newPC (.address addr))).answer (.checkNewPC addr)).fault

/-- The machine without the environment's bookkeeping: everything but the answers still prepared and the calls noted. -/
def State.machine (s : State) : State :=
  { s with answers := [], calls := [] }

end Sys2Proof.Machine

namespace Sys2Proof

/-- The bytes show the cells of a register file as the table of spec 30 R72 lays them out: 110 bytes, every word most
significant byte first, every flag as 0 or 1. -/
def RegFile.Shown (r : RegFile) (b : List Byte) : Prop :=
  b.length = 110 ∧
  (∀ (k : Nat) (w : Word),
    (∃ n : Fin 8, k = 4 * n ∧ w = r.d[n]) ∨ (∃ n : Fin 8, k = 32 + 4 * n ∧ w = r.a[n]) ∨
      (k, w) ∈ [(64, r.pc), (68, r.usp), (72, r.ssp), (76, r.vbr), (80, r.sfc), (84, r.dfc), (88, r.fpcr), (92, r.fpsr),
        (96, r.fpiar)] →
    (b.drop k).take 4 = [w.extractLsb' 24 8, w.extractLsb' 16 8, w.extractLsb' 8 8, w.extractLsb' 0 8]) ∧
  (∀ (k : Nat) (f : Bool),
    (k, f) ∈ [(100, r.t1), (101, r.t0), (102, r.s), (103, r.m), (105, r.x), (106, r.n), (107, r.z), (108, r.v),
      (109, r.c)] →
    b[k]? = some (if f then 1 else 0)) ∧
  b[104]? = some (r.imask.zeroExtend 8)

end Sys2Proof

namespace Sys2Proof.Machine

/-! ## Accesses -/

/-- The memory collaborator lets an ordinary access through. -/
abbrev State.Permits (s : State) (addr : Word) (size : AccessSize) (dir : Dir) : Prop :=
  s.cfg.policy.verdict addr size dir = none

/-- The memory collaborator lets a full-access 32-bit read through. -/
abbrev State.PermitsFull (s : State) (addr : Word) : Prop :=
  s.cfg.policy.verdictFull addr .four = none

/-- The address is none of the `n` bytes from a base. All its 32 bits count (log 41). -/
def Outside (a base : Word) (n : Nat) : Prop :=
  ∀ k, k < n → a ≠ base + BitVec.ofNat 32 k

/-! ## Exception entry -/

/-- The stack pointer an exception pushes on: A[7] in supervisor mode, else SSP (spec 60 R163). -/
def State.entrySP (s : State) : Word :=
  if s.regs.s then s.regs.a[7] else s.regs.ssp

/-- The supervisor stack has room for the short frame and the vector can be read. -/
abbrev State.ShortFrameFits (s : State) (vector : Nat) : Prop :=
  s.Permits (s.entrySP - 6) .two .write ∧ s.Permits (s.entrySP - 4) .four .write ∧
    s.PermitsFull (vectorAddress s.regs.vbr vector)

/-- The supervisor stack has room for the long frame and the vector can be read. -/
abbrev State.LongFrameFits (s : State) (vector : Nat) : Prop :=
  s.Permits (s.entrySP - 14) .two .write ∧ s.Permits (s.entrySP - 12) .four .write ∧
    s.Permits (s.entrySP - 8) .two .write ∧ s.Permits (s.entrySP - 6) .two .write ∧
      s.Permits (s.entrySP - 4) .four .write ∧ s.PermitsFull (vectorAddress s.regs.vbr vector)

/-- The calls an exception that no hook handles makes, to a handler at `h`: the exception hooks, the new-PC hooks, the
validation (spec 60 R162, R166). -/
def State.entryCalls (s : State) (vector : Nat) (h : Word) : List EnvCall :=
  s.hookCalls (.exception vector) (.vector vector) ++ (s.hookCalls .newPC (.address h) ++ [.checkNewPC h])

/-- `t` is `s` after exception entry with a frame of `size` bytes, as far as memory is not concerned: SR the packed
pre-exception word, supervisor mode with the stacks switched, A[7] below the frame, PC the vector's handler as memory holds
it after the push, trace state cleared, the calls of the entry made; nothing else changed but memory (spec 60 R160). -/
def EntersBy (size : Word) (vector : Nat) (s t : State) : Prop :=
  t =
    { s.calledAll (s.entryCalls vector (t.word (vectorAddress s.regs.vbr vector))) with
      regs := { s.regs with
        a := s.regs.a.set 7 (s.entrySP - size)
        usp := if s.regs.s then s.regs.usp else s.regs.a[7]
        s := true
        sr := s.regs.pack
        pc := t.word (vectorAddress s.regs.vbr vector)
        t1 := false
        t0 := false }
      sf := { s.sf with trace := false, dotrace := false }
      mem := t.mem }

/-- Exception entry with the short frame: SR at the new A[7] and PC above it (spec 30 R66); every other byte of memory as
before, in its canonical form. -/
def EntersShort (vector : Nat) (s t : State) : Prop :=
  EntersBy 6 vector s t ∧ t.mem.wf = true ∧ t.half (s.entrySP - 6) = s.regs.pack ∧ t.word (s.entrySP - 4) = s.regs.pc ∧
    ∀ a, Outside a (s.entrySP - 6) 6 → t.byte a = s.byte a

/-- Exception entry with the long frame: three zero placeholders, SR, PC (spec 30 R67); every other byte of memory as
before, in its canonical form. -/
def EntersLong (vector : Nat) (s t : State) : Prop :=
  EntersBy 14 vector s t ∧ t.mem.wf = true ∧ t.half (s.entrySP - 14) = 0 ∧ t.word (s.entrySP - 12) = 0 ∧ t.half (s.entrySP - 8) = 0 ∧
    t.half (s.entrySP - 6) = s.regs.pack ∧ t.word (s.entrySP - 4) = s.regs.pc ∧
      ∀ a, Outside a (s.entrySP - 14) 14 → t.byte a = s.byte a

/-- Whatever frame the vector has fits (spec 60 R164). -/
abbrev State.FrameFits (s : State) (vector : Nat) : Prop :=
  (hasLongFrame vector = true → s.LongFrameFits vector) ∧ (hasLongFrame vector = false → s.ShortFrameFits vector)

/-- Exception entry with the frame of the vector (spec 60 R164). -/
def Enters (vector : Nat) (s t : State) : Prop :=
  (hasLongFrame vector = true → EntersLong vector s t) ∧ (hasLongFrame vector = false → EntersShort vector s t)

/-- The conditions on a state under which the block takes an exception without a stop: a vector 0..255, an environment that
only observes and replies, memory in its canonical form, and a frame that fits unless a hook handles the vector. -/
abbrev State.CanTake (s : State) (vector : Nat) : Prop :=
  vector ≤ 255 ∧ s.Observing ∧ s.mem.wf = true ∧ (s.handles vector = false → s.FrameFits vector)

/-- `t` is `s` after `ProcessException(vector)`: entered, or with nothing but SR packed and the exception hooks called where
one of them handled the vector (spec 60 R160, R162). -/
def Takes (vector : Nat) (s t : State) : Prop :=
  (s.handles vector = false → Enters vector s t) ∧
    (s.handles vector = true →
      t = { s.calledAll (s.hookCalls (.exception vector) (.vector vector)) with
        regs := { s.regs with sr := s.regs.pack } })

/-- The vector of a memory fault (spec 60 R168, R169). -/
abbrev MemFault.vector (f : MemFault) : Nat :=
  if f.kind = .bus then 2 else 3

/-- The state with the record of a memory fault (spec 60 R168). -/
def State.recorded (s : State) (f : MemFault) : State :=
  { s with frec := some { addr := f.addr, size := f.size, dir := f.dir } }

/-- The instruction, run in `s`, is cut short by the memory fault `f` when its handler has made of `s` the state `m`: the
fault is recorded, its exception taken and no cycle counted, wherever that exception can be taken (spec 60 R171). -/
def FaultsAt (i : Instr) (s m : State) (f : MemFault) : Prop :=
  (m.recorded f).CanTake f.vector → ∃ t, exec i s = .next t ∧ Takes f.vector (m.recorded f) t

/-- The instruction, run in `s`, is cut short at an access wherever the memory collaborator rejects it, its handler having
made of `s` the state `m` (spec 60 R171). -/
def FaultsAtAccess (i : Instr) (s m : State) (addr : Word) (size : AccessSize) (dir : Dir) : Prop :=
  ∀ kind, s.cfg.policy.verdict addr size dir = some kind →
    FaultsAt i s m { kind := kind, addr := addr, size := size, dir := dir }

/-! ## A pass and an idle tick -/

/-- What step A of an iteration makes of the state: nothing while nested; the query; and where it answers yes, whatever
`onInstructionBreak` does (spec 40 R82, R87). -/
def BreakQuery (s t : State) : Prop :=
  s.nested = true ∧ t = s ∨
    s.nested = false ∧ (s.answer (.isBreakLocation s.regs.pc)).acts = [] ∧
      ((s.answer (.isBreakLocation s.regs.pc)).yes = false ∧ t = s.called (.isBreakLocation s.regs.pc) ∨
        (s.answer (.isBreakLocation s.regs.pc)).yes = true ∧
          envTell s.runner .onInstructionBreak (s.called (.isBreakLocation s.regs.pc)) = .ok () t)

/-- What a callback does that sets END_OF_CYCLE, again if it is the end-of-cycle callback (spec 41 R102). -/
abbrev raiseEOC : Act :=
  .call ⟨.setFlag .eoc, rfl⟩

/-- What the end-of-cycle branch makes of the state when its callback does not answer "handled, stop" (spec 41 R102). -/
def State.endOfCycled (s : State) : State :=
  if s.sf.eoc then { s.called (.onEndOfCycle false) with sf := { s.sf with eoc := false } } else s

/-- `t` is `s` after the trace-fire branch: the trace exception where DOTRACE is set and STOP is not (spec 41 R103). -/
def FiresTrace (s t : State) : Prop :=
  (s.sf.dotrace = true ∧ s.sf.stop = false → Takes 9 s t) ∧ (s.sf.dotrace = false ∨ s.sf.stop = true → t = s)

/-- The state after the trace-arm branch (spec 41 R105). -/
def State.traceArmed (s : State) : State :=
  if s.sf.trace = true ∧ s.regs.t1 = true then
    { s with lta := some s.regs.pc, sf := { s.sf with trace := false, dotrace := true } }
  else s

/-- The service branch runs: DOINT is set and no kernel-stack overflow is latched (spec 41 R106). -/
def State.serves (s : State) : Bool :=
  s.sf.doint && !(s.answer .kernelStackOverflowed).yes

/-- The level the service branch reads. -/
def State.levelRead (s : State) : Option Nat :=
  ((s.called .kernelStackOverflowed).answer .currentInterruptLevel).level

/-- The state in which the service branch has read the level and cleared DOINT. -/
def State.levelSampled (s : State) : State :=
  { s.calledAll [.kernelStackOverflowed, .currentInterruptLevel] with sf := { s.sf with doint := false } }

/-- The interrupt base read in a state: the reply of the query, or the platform's where none is prepared (log 4). -/
def State.baseRead (s : State) : Int :=
  (s.answer .interruptVectorBase).number.getD s.cfg.vectorBase

/-- The service branch can be carried out: a level it would serve is at most 7 and its vector can be taken (30 R69, 60
R174). -/
def State.CanServe (s : State) : Prop :=
  s.serves = true → ∀ l : Nat, s.levelRead = some l → s.regs.imask.toNat < l →
    l ≤ 7 ∧ ∃ v : Nat, (v : Int) = s.levelSampled.baseRead + l ∧ (s.levelSampled.called .interruptVectorBase).CanTake v

/-- `t` is `s` after the service branch of a pass (spec 41 R106) or, with `idle`, of an idle tick (R111): nothing with DOINT
clear; the query alone while the latch is set; else DOINT cleared, and a level above IMASK served, which sets the mask and
INT (60 R174) and clears STOPPED, and in an idle tick STOP too; any other level is dropped. The latch is asked only with DOINT set (log 44). -/
def Serves (idle : Bool) (s t : State) : Prop :=
  (s.sf.doint = false → t = s) ∧
  (s.sf.doint = true → (s.answer .kernelStackOverflowed).yes = true → t = s.called .kernelStackOverflowed) ∧
  (s.serves = true → (∀ l, s.levelRead = some l → l ≤ s.regs.imask.toNat) → t = s.levelSampled) ∧
  ∀ l v : Nat, s.serves = true → s.levelRead = some l → s.regs.imask.toNat < l →
    (v : Int) = s.levelSampled.baseRead + l →
    ∃ u, Takes v (s.levelSampled.called .interruptVectorBase) u ∧
      t = { u with
        regs := { u.regs with imask := BitVec.ofNat 3 l, stopped := false }
        sf := { u.sf with int := true, stop := u.sf.stop && !idle } }

/-- The state after the defer branch (spec 41 R107). -/
def State.deferred (s : State) : State :=
  { s with sf := { s.sf with int := false, doint := s.sf.doint || s.sf.int } }

/-- The result of the break check (spec 41 R108). -/
def State.breaks (s : State) : Bool :=
  s.sf.brk || (s.answer .sessionShouldBreak).yes

/-- The state after the break check, which always asks (log 27). -/
def State.breakChecked (s : State) : State :=
  s.called .sessionShouldBreak

/-- The calls of `WakeSynthesis()`: nothing more for a device that is awake or has a button event pending; else the three
subsystems are asked, suspended and restored around the press and the release (spec 41 R110; log 37). -/
def State.wakeCalls (s : State) : List EnvCall :=
  if (s.answer .isAsleep).yes then
    if (s.answer .buttonEventPending).yes then [.isAsleep, .buttonEventPending]
    else
      [.isAsleep, .buttonEventPending, .isActive .fuzz, .isActive .playback, .isActive .minimize, .setActive .fuzz false,
        .setActive .playback false, .setActive .minimize false, .postPowerButton true, .postPowerButton false,
        .setActive .fuzz (s.answer (.isActive .fuzz)).yes, .setActive .playback (s.answer (.isActive .playback)).yes,
        .setActive .minimize (s.answer (.isActive .minimize)).yes]
  else [.isAsleep]

/-- The state in an idle tick before its interrupt check, `before` the calls made before the tick (spec 41 R109). -/
def State.idled (s : State) (before : List EnvCall) : State :=
  { s.calledAll (before ++ [.delay, .onCycle true, .onCycleSlowly true]) with cyc := s.cyc + s.cfg.idleTick }

/-- The state in which a pass with STOP set makes its first interrupt check: END_OF_CYCLE done, the device woken, one tick
(spec 41 R102, R104, R109). -/
def State.passIdled (s : State) : State :=
  s.endOfCycled.idled s.endOfCycled.wakeCalls

/-- `t` is `s` after the interrupt check of an idle tick: the service branch, then the defer branch, which under `chain` is
left out where the service branch ran (spec 41 R111, R115). -/
def ChecksInterrupt (s t : State) : Prop :=
  ∃ u, Serves true s u ∧ t = if s.cfg.scEval = .chain ∧ s.serves = true then u else u.deferred

/-- What the end of a pass makes of a state, `outer` the activations around it: in an `execute()`, true ends the activation
and false goes back to L (spec 40 R80); an `ExecuteSpecial()` by itself returns its result (log 8, 23). -/
def State.passEnded (inn : IdleIn) (outer : List Phase) (result : Bool) (t : State) : State :=
  match inn with
  | .loop => { t with acts := if result then outer else .fetch :: outer }
  | .special | .port => { t with acts := outer, ret := some (.bool result) }

/-- How a pass whose stopped loop has ticked goes on from `s`, the state after the interrupt check: a break clears BRK and
ends the pass with true; with STOP still set the loop goes on; else the later branches of a sequential pass and its break
check follow, under `chain` the break check alone (spec 41 R104, R109, R115). -/
def TickEnds (inn : IdleIn) (outer : List Phase) (s : State) (o : Host.Outcome State Fault Refusal) : Prop :=
  (s.breaks = true →
    o = .next (State.passEnded inn outer true { s.breakChecked with sf := { s.sf with brk := false } })) ∧
  (s.breaks = false → s.sf.stop = true → o = .next { s.breakChecked with acts := .idle inn :: outer }) ∧
  (s.breaks = false → s.sf.stop = false → s.cfg.scEval = .sequential → s.breakChecked.traceArmed.CanServe →
    ∃ u, Serves false s.breakChecked.traceArmed u ∧
      o = .next (State.passEnded inn outer u.deferred.breaks u.deferred.breakChecked)) ∧
  (s.breaks = false → s.sf.stop = false → s.cfg.scEval = .chain →
    o = .next (State.passEnded inn outer s.breakChecked.breaks s.breakChecked.breakChecked))

/-! ## Invariants -/

/-- A hook-list key is one of the spec's: an exception vector is 0..255 (spec 42 R120). -/
def HookKey.inRange : HookKey → Bool
  | .exception v => decide (v ≤ 255)
  | .jsr | .jsrInd | .link | .rte | .rts | .newPC | .newSP => true

/-- The activation goes on with an idle tick. -/
def Phase.isIdle : Phase → Bool
  | .idle _ => true
  | .fetch | .check => false

/-- Memory and the hook registry keep their form: memory canonical, the registry's keys in range. -/
abbrev State.FormInv (s : State) : Prop :=
  s.mem.wf = true ∧ s.hooks.all (fun e => e.1.inRange) = true

/-- The packed word's unmodelled bits are 0 (spec 30 R64). -/
abbrev State.SRMasked (s : State) : Prop :=
  s.regs.sr &&& srMask = s.regs.sr

/-- No injected handler writes an unmodelled bit of the packed word, which it could by writing SR plainly (70 R216;
log 22). -/
abbrev State.HandlersKeepSRMasked (s : State) : Prop :=
  ∀ e ∈ s.answers, ∀ v, HandlerAct.writeCell .sr v ∈ e.2.body → v.extractLsb' 0 16 &&& srMask = v.extractLsb' 0 16

/-- Between steps: nobody of the environment is acting and no hook list is being invoked; at most one activation is in
progress, and while it idles SF.STOP is set (spec 41 R109, 70 R212). -/
abbrev State.SequencingInv (s : State) : Prop :=
  s.ctx = .host ∧ s.busy = [] ∧ s.acts.length ≤ 1 ∧ (s.acts.any Phase.isIdle = true → s.sf.stop = true)

end Sys2Proof.Machine
end

