-- ==== Sys2Proof/Certificates/Slice0/Obligations.lean ====
section
/-! DEFINITION. The statements for the provers. "Observing" means an environment that only observes and replies, "Silent" one
whose new-PC validator may also end in a memory fault (Sys2Proof/Safety.lean): the replies are arbitrary. -/

open Sys2Proof Sys2Proof.Machine Host

/-! ## Encoding -/

/-- Every opcode-word instruction is what its encoding decodes to, the row DISPATCH apart, which covers every word
(30 R60, R61, R77; log 12). -/
def Obligations.DecodeOfEncodeIsInstruction : Prop :=
  ∀ (i : Instr) (rest : List Byte), i.wellFormed = true → i.isOpcodeWord = true → (∀ op, i ≠ .dispatch op) →
    decode (encode i ++ rest) = .ok (i, rest)

/-- Every one of the 65536 words decodes to a well-formed opcode-word instruction whose encoding is that word
(30 R60, R73). -/
def Obligations.EncodeOfDecodeIsWord : Prop :=
  ∀ op : Half, encodeWord (decodeWord op) = some op ∧ (decodeWord op).wellFormed = true ∧
    (decodeWord op).isOpcodeWord = true ∧ ∀ op', decodeWord op ≠ .dispatch op'

/-- Words of the table of 30 R77, written out, decode to their rows; words that it does not list decode to the illegal rows
of 30 R61, as the default OpTable of the model has them (DESIGN CHOICE, log 12; 95 section 3.1). -/
def Obligations.NamedWordsDecode : Prop :=
  decode [0x4E, 0x71] = .ok (.nop, []) ∧ decode [0x4E, 0x72, 0x20, 0x00] = .ok (.stop, [0x20, 0x00]) ∧
    decode [0x4E, 0x73] = .ok (.rte, []) ∧ decode [0x4E, 0x4F] = .ok (.trap 15, []) ∧
    decode [0x4E, 0x56] = .ok (.link 6, []) ∧ decode [0x4E, 0xB9] = .ok (.jsr 7 1, []) ∧
    decode [0x4A, 0xFC] = .ok (.illegal, []) ∧ decode [0x30, 0x39] = .ok (.moveWAbsLD0, []) ∧
    decode [0xA1, 0x23] = .ok (.illegalLineA 0x123, []) ∧ decode [0xF0, 0x01] = .ok (.illegalLineF 0x001, []) ∧
    decode [0x9F, 0xFF] = .ok (.illegalOther 0x9 0xFFF, []) ∧ decode [0x4E] = .error .truncated

/-! ## The status word and the special flags -/

/-- The packed status word has each field at its bit position and 0 elsewhere (43 R135). -/
def Obligations.PackPutsEachFieldInPlace : Prop :=
  ∀ r : RegFile, r.pack =
    (BitVec.ofBool r.t1).zeroExtend 16 <<< 15 ||| (BitVec.ofBool r.t0).zeroExtend 16 <<< 14 |||
    (BitVec.ofBool r.s).zeroExtend 16 <<< 13 ||| (BitVec.ofBool r.m).zeroExtend 16 <<< 12 |||
    r.imask.zeroExtend 16 <<< 8 ||| (BitVec.ofBool r.x).zeroExtend 16 <<< 4 |||
    (BitVec.ofBool r.n).zeroExtend 16 <<< 3 ||| (BitVec.ofBool r.z).zeroExtend 16 <<< 2 |||
    (BitVec.ofBool r.v).zeroExtend 16 <<< 1 ||| (BitVec.ofBool r.c).zeroExtend 16

/-- The round-trip laws of the two conversions (43 R137). -/
def Obligations.StatusConversionsAreInverse : Prop :=
  (∀ (r : RegFile) (v : Half), (r.unpack v).pack = v &&& 0xF71F) ∧ ∀ r : RegFile, r.unpack r.pack = r

/-- PackSR makes the packed cache current and changes nothing else; GetSR does so and returns it (43 R138, R140). -/
def Obligations.PackSRAndGetSRMakeCacheCurrent : Prop :=
  ∀ s : State,
    exec .packSR s = .next { s with regs := { s.regs with sr := s.regs.pack } } ∧
    exec .getSR s = .next { s with regs := { s.regs with sr := s.regs.pack }, ret := some (.half s.regs.pack) }

/-- SetSR writes the ten fields and the masked word, swaps A[7] with the shadows when S changes, sets INT, makes TRACE
follow T1, and changes nothing else (43 R139). -/
def Obligations.SetSRWritesStatusAndSwapsStacks : Prop :=
  ∀ (v : Half) (s : State),
    exec (.setSR v) s = .next
      { s with
        regs := { s.regs with
          t1 := v.getLsbD 15, t0 := v.getLsbD 14, s := v.getLsbD 13, m := v.getLsbD 12, imask := v.extractLsb' 8 3
          x := v.getLsbD 4, n := v.getLsbD 3, z := v.getLsbD 2, v := v.getLsbD 1, c := v.getLsbD 0
          sr := v &&& 0xF71F
          a := if s.regs.s = v.getLsbD 13 then s.regs.a
            else s.regs.a.set 7 (if s.regs.s then s.regs.usp else s.regs.ssp)
          ssp := if s.regs.s = true ∧ v.getLsbD 13 = false then s.regs.a[7] else s.regs.ssp
          usp := if s.regs.s = false ∧ v.getLsbD 13 = true then s.regs.a[7] else s.regs.usp }
        sf := { s.sf with int := true, trace := v.getLsbD 15 } }

/-- SetFlag and ClearFlag write the flag named and nothing else (41 R112). -/
def Obligations.SetFlagAndClearFlagWriteOneFlag : Prop :=
  ∀ (f : Flag) (s : State),
    (∃ t, exec (.setFlag f) s = .next t ∧ t.sf.get f = true ∧ (∀ g, g ≠ f → t.sf.get g = s.sf.get g) ∧
      { t with sf := s.sf } = s) ∧
    ∃ t, exec (.clearFlag f) s = .next t ∧ t.sf.get f = false ∧ (∀ g, g ≠ f → t.sf.get g = s.sf.get g) ∧
      { t with sf := s.sf } = s

/-- EnterStop sets SF.STOP and STOPPED and changes nothing else (41 R113). -/
def Obligations.EnterStopSetsBothBits : Prop :=
  ∀ s : State, exec .enterStop s = .next
    { s with sf := { s.sf with stop := true }, regs := { s.regs with stopped := true } }

/-! ## Register access and persistence -/

/-- getRegister returns the named cell, refreshing SR for SR alone; an unknown identifier is refused;
getRegisters packs SR and returns the whole record (43 R142, R144, 30 R71). -/
def Obligations.GetRegisterAndGetRegistersReturnCells : Prop :=
  ∀ s : State,
    (∀ n : Fin 8, exec (.getRegister n) s = .next { s with ret := some (.word s.regs.d[n]) }) ∧
    (∀ n : Fin 8, exec (.getRegister (8 + n)) s = .next { s with ret := some (.word s.regs.a[n]) }) ∧
    exec (.getRegister 16) s = .next { s with ret := some (.word s.regs.pc) } ∧
    exec (.getRegister 17) s = .next
      { s with regs := { s.regs with sr := s.regs.pack }, ret := some (.word (s.regs.pack.zeroExtend 32)) } ∧
    exec (.getRegister 18) s = .next { s with ret := some (.word s.regs.usp) } ∧
    exec (.getRegister 19) s = .next { s with ret := some (.word s.regs.ssp) } ∧
    exec (.getRegister 20) s = .next { s with ret := some (.word s.regs.vbr) } ∧
    exec (.getRegister 21) s = .next { s with ret := some (.word s.regs.sfc) } ∧
    exec (.getRegister 22) s = .next { s with ret := some (.word s.regs.dfc) } ∧
    exec (.getRegister 23) s = .next { s with ret := some (.word s.regs.fpcr) } ∧
    exec (.getRegister 24) s = .next { s with ret := some (.word s.regs.fpsr) } ∧
    exec (.getRegister 25) s = .next { s with ret := some (.word s.regs.fpiar) } ∧
    (∀ id, 25 < id → exec (.getRegister id) s = .refused .unknownRegister) ∧
    exec .getRegisters s = .next
      { s with
        regs := { s.regs with sr := s.regs.pack }
        ret := some (.regs { s.regs with sr := s.regs.pack }) }

/-- setRegister of a cell other than PC, SR and A[7] writes that cell and nothing else; SR goes through SetSR; an unknown
identifier is refused (43 R143, 30 R71). -/
def Obligations.SetRegisterWritesNamedCell : Prop :=
  ∀ (s : State) (v : Word),
    (∀ n : Fin 8, exec (.setRegister n v) s = .next { s with regs := { s.regs with d := s.regs.d.set n v } }) ∧
    (∀ n : Fin 7, exec (.setRegister (8 + n) v) s =
      .next { s with regs := { s.regs with a := s.regs.a.set n v } }) ∧
    exec (.setRegister 17 v) s = exec (.setSR (v.extractLsb' 0 16)) s ∧
    exec (.setRegister 18 v) s = .next { s with regs := { s.regs with usp := v } } ∧
    exec (.setRegister 19 v) s = .next { s with regs := { s.regs with ssp := v } } ∧
    exec (.setRegister 20 v) s = .next { s with regs := { s.regs with vbr := v } } ∧
    exec (.setRegister 21 v) s = .next { s with regs := { s.regs with sfc := v } } ∧
    exec (.setRegister 22 v) s = .next { s with regs := { s.regs with dfc := v } } ∧
    exec (.setRegister 23 v) s = .next { s with regs := { s.regs with fpcr := v } } ∧
    exec (.setRegister 24 v) s = .next { s with regs := { s.regs with fpsr := v } } ∧
    exec (.setRegister 25 v) s = .next { s with regs := { s.regs with fpiar := v } } ∧
    ∀ id, 25 < id → exec (.setRegister id v) s = .refused .unknownRegister

/-- setRegister of PC runs the new-PC hooks and the validation and installs the value; of A[7] it writes the cell and runs
the new-SP hooks (43 R143); a memory fault of the validation is the double fault, refused (60 R172). -/
def Obligations.SetRegisterOfPCAndSPRunsHooks : Prop :=
  (∀ (s : State) (v : Word), s.Observing →
    (∃ t, exec (.setRegister 16 v) s = .next t ∧ t.machine = { s with regs := { s.regs with pc := v } }.machine ∧
      t.calls = .checkNewPC v :: ((s.hookCalls .newPC (.address v)).reverse ++ s.calls)) ∧
    ∃ t ev, exec (.setRegister 15 v) s = .next t ∧
      t.machine = { s with regs := { s.regs with a := s.regs.a.set 7 v } }.machine ∧
      t.calls = (s.hookCalls .newSP (.event ev)).reverse ++ s.calls) ∧
  ∀ (s : State) (v : Word) (m : MemFault), s.Silent → s.validatorFault v = some m →
    exec (.setRegister 16 v) s = .refused .doubleFault

/-- setRegisters loads the record with its packed word as the authority for the fields, makes no stack swap, changes no
special flag, and runs the new-PC hooks, the validation and the new-SP hooks (43 R145); a memory fault of the validation is
the double fault, refused (60 R172). -/
def Obligations.SetRegistersLoadsRecord : Prop :=
  (∀ (s : State) (r : RegFile), s.Observing →
    ∃ t ev, exec (.setRegisters r) s = .next t ∧
      t.machine = { s with regs := ({ r with sr := r.sr &&& 0xF71F } : RegFile).unpack (r.sr &&& 0xF71F) }.machine ∧
      t.calls = (s.hookCalls .newSP (.event ev)).reverse ++
        (.checkNewPC r.pc :: ((s.hookCalls .newPC (.address r.pc)).reverse ++ s.calls))) ∧
  ∀ (s : State) (r : RegFile) (m : MemFault), s.Silent → s.validatorFault r.pc = some m →
    exec (.setRegisters r) s = .refused .doubleFault

/-- save packs SR and writes to the file the 110 bytes that show every cell of 30 R72, and changes nothing else
(43 R146). -/
def Obligations.SaveWritesBlobOfCells : Prop :=
  ∀ (f : FileId) (s : State), ∃ t b, exec (.save f) s = .next t ∧ t.file f = some b ∧
    (∀ g, g ≠ f → t.file g = s.file g) ∧ { t with files := s.files } = { s with regs := { s.regs with sr := s.regs.pack } } ∧
    s.regs.Shown b

/-- load of a file whose bytes show the cells of `r` completes: every cell of 30 R72 is that of `r`, SR is packed from the
fields, STOPPED and everything else keep the values they had before the load, the PC is validated and the new-SP hooks are
run (43 R147); so save, then any change that keeps the file, then load restores every cell of the blob (43 R148). A memory
fault of the validation is the double fault, refused (60 R172). -/
def Obligations.SaveThenLoadRoundTrips : Prop :=
  (∀ (f : FileId) (r : RegFile) (b : List Byte) (s : State), r.Shown b → s.file f = some b → s.Observing →
    ∃ t ev, exec (.load f) s = .next t ∧
      t.machine = { s with regs := { r with sr := r.pack, stopped := s.regs.stopped } }.machine ∧
      t.calls = (s.hookCalls .newSP (.event ev)).reverse ++
        (.checkNewPC r.pc :: ((s.hookCalls .newPC (.address r.pc)).reverse ++ s.calls))) ∧
  (∀ (f : FileId) (s s1 s2 : State), exec (.save f) s = .next s1 → s2.file f = s1.file f → s2.Observing →
    ∃ t ev, exec (.load f) s2 = .next t ∧
      t.machine = { s2 with regs := { s.regs with sr := s.regs.pack, stopped := s2.regs.stopped } }.machine ∧
      t.calls = (s2.hookCalls .newSP (.event ev)).reverse ++
        (.checkNewPC s.regs.pc :: ((s2.hookCalls .newPC (.address s.regs.pc)).reverse ++ s2.calls))) ∧
  ∀ (f : FileId) (r : RegFile) (b : List Byte) (s : State) (m : MemFault), r.Shown b → s.file f = some b → s.Silent →
    s.validatorFault r.pc = some m → exec (.load f) s = .refused .doubleFault

/-- load refuses a flag byte other than 0 and 1 and a mask byte above 7 (43 R147), a blob of a wrong length, and a file the
collaborator does not hold (the last two are the model's, log 24). -/
def Obligations.LoadRefusesBadBlob : Prop :=
  ∀ (f : FileId) (s : State),
    (∀ (r : RegFile) (b : List Byte) (k : Nat) (v : Byte), r.Shown b → 100 ≤ k → k < 110 → k ≠ 104 → 1 < v →
      s.file f = some (b.set k v) → exec (.load f) s = .refused .badBlob) ∧
    (∀ (r : RegFile) (b : List Byte) (v : Byte), r.Shown b → 7 < v → s.file f = some (b.set 104 v) →
      exec (.load f) s = .refused .badBlob) ∧
    (∀ b, b.length ≠ 110 → s.file f = some b → exec (.load f) s = .refused .badBlob) ∧
    (s.file f = none → exec (.load f) s = .refused .noFile)

/-! ## The hook registry and the event ports -/

/-- installHook appends to the list of the kind and key without looking for a duplicate, removeHook deletes the first
occurrence of the callback in it, or nothing; both change nothing else, refuse a key above 255 of the exception kind, and
refuse a list that is being invoked (42 R121, R122, R123). The list is that of the vector for the exception kind, and the
one of the kind for every other (42 R120). That a removal from a list being invoked is refused also where the callback is
not in it is the model's (DESIGN CHOICE, log 43). -/
def Obligations.HookRegistryAppendsAndDeletesFirstMatch : Prop :=
  ∀ (kind : HookKind) (key : Nat) (cb : Callback) (s : State),
    (∀ k : HookKey,
      (kind = .exception ∧ key ≤ 255 ∧ k = .exception key) ∨
        (kind, k) ∈ [(HookKind.jsr, HookKey.jsr), (.jsrInd, .jsrInd), (.link, .link), (.rte, .rte), (.rts, .rts),
          (.newPC, .newPC), (.newSP, .newSP)] →
      (k ∉ s.busy →
        (∃ t, exec (.installHook kind key cb) s = .next t ∧ t.hookList k = s.hookList k ++ [cb] ∧
          (∀ k', k' ≠ k → t.hookList k' = s.hookList k') ∧ { t with hooks := s.hooks } = s) ∧
        ∃ t, exec (.removeHook kind key cb) s = .next t ∧ t.hookList k = (s.hookList k).erase cb ∧
          (∀ k', k' ≠ k → t.hookList k' = s.hookList k') ∧ { t with hooks := s.hooks } = s) ∧
      (k ∈ s.busy →
        exec (.installHook kind key cb) s = .refused .hookListBusy ∧
          exec (.removeHook kind key cb) s = .refused .hookListBusy)) ∧
    (kind = .exception → 255 < key →
      exec (.installHook kind key cb) s = .refused .badHookKey ∧
        exec (.removeHook kind key cb) s = .refused .badHookKey)

/-- Every event port calls every callback in order of registration; those of JSR, JSR-indirect, RTE and RTS return the OR of
the replies, those of LINK and new-SP return nothing; nothing else changes (40 R91 to R96, 42 R125, R126). -/
def Obligations.EventPortsCallHooksInOrder : Prop :=
  ∀ (ev : EventRecord) (s : State), s.Observing →
    (∀ i key, (i, key) ∈ [(Instr.eventJSR ev, HookKey.jsr), (.eventJSRInd ev, .jsrInd), (.eventRTE ev, .rte),
      (.eventRTS ev, .rts)] →
      ∃ t, exec i s = .next t ∧ t.calls = (s.hookCalls key (.event ev)).reverse ++ s.calls ∧
        t.machine = { s with ret := some (.bool ((s.replies (s.hookCalls key (.event ev))).any id)) }.machine) ∧
    ∀ i key, (i, key) ∈ [(Instr.eventLINK ev, HookKey.link), (.eventNewSP ev, .newSP)] →
      ∃ t, exec i s = .next t ∧ t.calls = (s.hookCalls key (.event ev)).reverse ++ s.calls ∧ t.machine = s.machine

/-! ## Installing a PC, the cycle count -/

/-- SetPC calls the new-PC hooks in order, then the validation, installs the address and changes nothing else (40 R88);
whatever its hooks and its validator do, an inner SetPC among it, a SetPC that completes, and is not tried again (log 10),
has installed its own address (70 R217, 42 R127). A memory fault of the validation in a SetPC that is made at the port, by
neither exception processing, reset nor an opcode handler, is the model's to settle (DESIGN CHOICE, log 19; no rule speaks
of it): refused as the double fault is. -/
def Obligations.SetPCCallsHooksThenValidatesThenInstalls : Prop :=
  (∀ (addr : Word) (s : State), s.Observing →
    ∃ t, exec (.setPC addr) s = .next t ∧ t.machine = { s with regs := { s.regs with pc := addr } }.machine ∧
      t.calls = .checkNewPC addr :: ((s.hookCalls .newPC (.address addr)).reverse ++ s.calls)) ∧
  (∀ (addr : Word) (s t : State), exec (.setPC addr) s = .next t → t.bound = s.bound → t.regs.pc = addr) ∧
  ∀ (addr : Word) (s : State) (m : MemFault), s.Silent → s.validatorFault addr = some m →
    exec (.setPC addr) s = .refused .doubleFault

/-- cycleCount returns CYC (40 R97). -/
def Obligations.CycleCountReturnsCYC : Prop :=
  ∀ s : State, exec .cycleCount s = .next { s with ret := some (.word s.cyc) }

/-! ## Exceptions and interrupts -/

/-- A vector other than 2 and 3 that no hook handles pushes the short frame: every cell, flag and byte of memory as 60 R160
to R167 and 30 R66 say. -/
def Obligations.ShortFrameExceptionEntry : Prop :=
  ∀ (v : Nat) (s : State), v ≤ 255 → v ≠ 2 → v ≠ 3 → s.Observing → s.mem.wf = true → s.handles v = false →
    s.ShortFrameFits v → ∃ t, exec (.processException v) s = .next t ∧ EntersShort v s t

/-- Vectors 2 and 3 push the long frame, its placeholders zero whatever FREC holds (60 R164, 30 R67, 90 C1). -/
def Obligations.LongFrameExceptionEntry : Prop :=
  ∀ (v : Nat) (s : State), v = 2 ∨ v = 3 → s.Observing → s.mem.wf = true → s.handles v = false → s.LongFrameFits v →
    ∃ t, exec (.processException v) s = .next t ∧ EntersLong v s t

/-- When a hook of the vector answers "handled", every hook has been called, SR is packed, and nothing else is done
(60 R162). -/
def Obligations.HandledExceptionOnlyPacksSR : Prop :=
  ∀ (v : Nat) (s : State), v ≤ 255 → s.Observing → s.handles v = true →
    ∃ t, exec (.processException v) s = .next t ∧
      t.machine = { s with regs := { s.regs with sr := s.regs.pack } }.machine ∧
      t.calls = (s.hookCalls (.exception v) (.vector v)).reverse ++ s.calls

/-- A vector number outside 0..255 is refused (30 R68); a frame write or vector read that faults, and a memory fault of the
validation of the handler's address, are the double fault, refused (60 R172); an interrupt level above 7 and an interrupt
vector outside 0..255 are refused (60 R174, 30 R69). -/
def Obligations.ExceptionAndInterruptRefusals : Prop :=
  (∀ (v : Nat) (s : State), 255 < v → exec (.processException v) s = .refused .badVector) ∧
  (∀ (v : Nat) (s : State), v ≤ 255 → s.Observing → s.handles v = false → ¬ s.FrameFits v →
    exec (.processException v) s = .refused .doubleFault) ∧
  (∀ (v : Nat) (s : State) (n : Nat) (h : Word) (m : MemFault), v ≤ 255 → s.Silent → s.handles v = false →
    s.FrameFits v → n = (if v = 2 ∨ v = 3 then 14 else 6) → h = s.word (vectorAddress s.regs.vbr v) →
    (∀ k, k < 4 → Outside (vectorAddress s.regs.vbr v + BitVec.ofNat 32 k) (s.entrySP - BitVec.ofNat 32 n) n) →
    (s.calledAll (s.hookCalls (.exception v) (.vector v))).validatorFault h = some m →
    exec (.processException v) s = .refused .doubleFault) ∧
  (∀ (level : Nat) (s : State), 7 < level → exec (.processInterrupt level) s = .refused .badLevel) ∧
  ∀ (level : Nat) (s : State), level ≤ 7 → s.Observing →
    (((s.answer .interruptVectorBase).number.getD s.cfg.vectorBase) + level < 0 ∨
      255 < ((s.answer .interruptVectorBase).number.getD s.cfg.vectorBase) + level) →
    exec (.processInterrupt level) s = .refused .badVector

/-- BusError and AddressError record the fault and take vector 2 or 3, the frame not showing the record (60 R168, R169). -/
def Obligations.BusErrorAndAddressErrorRecordAndTake : Prop :=
  ∀ (addr : Word) (size : AccessSize) (dir : Dir) (s : State),
    (s.CanTake 2 → ∃ t, exec (.busError addr size dir) s = .next t ∧
      Takes 2 { s with frec := some { addr := addr, size := size, dir := dir } } t) ∧
    (s.CanTake 3 → ∃ t, exec (.addressError addr size dir) s = .next t ∧
      Takes 3 { s with frec := some { addr := addr, size := size, dir := dir } } t)

/-- ProcessIllegalInstruction takes vector 10, 11 or 4 by the top nibble, PC not adjusted (40 R89, 30 R61). -/
def Obligations.IllegalInstructionTakesVectorOfNibble : Prop :=
  ∀ (op : Half) (s : State),
    (op.extractLsb' 12 4 = 0xA → s.CanTake 10 → ∃ t, exec (.processIllegalInstruction op) s = .next t ∧ Takes 10 s t) ∧
    (op.extractLsb' 12 4 = 0xF → s.CanTake 11 → ∃ t, exec (.processIllegalInstruction op) s = .next t ∧ Takes 11 s t) ∧
    (op.extractLsb' 12 4 ≠ 0xA → op.extractLsb' 12 4 ≠ 0xF → s.CanTake 4 →
      ∃ t, exec (.processIllegalInstruction op) s = .next t ∧ Takes 4 s t)

/-- ProcessInterrupt takes the vector base + level, then IMASK is the level and INT is set (60 R174); the base is the reply
of the query, `cfg.vectorBase` where none is prepared (log 4). Whatever the environment does, a ProcessInterrupt that
completes, and is not tried again (log 10), leaves IMASK at the level and INT set. -/
def Obligations.ProcessInterruptTakesVectorThenRaisesMask : Prop :=
  (∀ (level v : Nat) (s : State), level ≤ 7 → s.Observing →
    (v : Int) = ((s.answer .interruptVectorBase).number.getD s.cfg.vectorBase) + level →
    (s.called .interruptVectorBase).CanTake v →
      ∃ u, exec (.processInterrupt level) s = .next
          { u with regs := { u.regs with imask := BitVec.ofNat 3 level }, sf := { u.sf with int := true } } ∧
        Takes v (s.called .interruptVectorBase) u) ∧
  ∀ (level : Nat) (s t : State), exec (.processInterrupt level) s = .next t → t.bound = s.bound →
    t.regs.imask.toNat = level ∧ t.sf.int = true

/-! ## Opcode words -/

/-- NOP leaves PC at the next word, counts 4 cycles, and changes nothing else (95 section 3.1, 40 R84). -/
def Obligations.NopAdvancesPC : Prop :=
  ∀ s : State, exec .nop s = .next { s with regs := { s.regs with pc := s.regs.pc + 2 }, cyc := s.cyc + 4 }

/-- TRAP #n takes vector 32 + n with PC past the instruction and counts 4 cycles (60 R173, 95 section 3.1); TRAPV goes past
itself and takes vector 7 exactly when V is set (60 R156, R178), its cycles being `externalCost` (log 13). -/
def Obligations.TrapWordsTakeTheirVectorPastTheInstruction : Prop :=
  (∀ (n : BitVec 4) (s s' : State),
    s' = { s with regs := { s.regs with pc := s.regs.pc + 2 }, cyc := s.cyc + 4 } → s'.CanTake (32 + n.toNat) →
      ∃ t, exec (.trap n) s = .next t ∧ Takes (32 + n.toNat) s' t) ∧
  ∀ (s s' : State), s' = { s with regs := { s.regs with pc := s.regs.pc + 2 }, cyc := s.cyc + s.cfg.externalCost } →
    (s.regs.v = false → exec .trapv s = .next s') ∧
    (s.regs.v = true → s'.CanTake 7 → ∃ t, exec .trapv s = .next t ∧ Takes 7 s' t)

/-- The illegal words take the vector of their top nibble, PC at the word, and count 4 cycles (40 R89, 95 section 3.1). -/
def Obligations.IllegalWordsTakeTheirVector : Prop :=
  ∀ (s s' : State), s' = { s with cyc := s.cyc + 4 } →
    (∀ rest, s'.CanTake 10 → ∃ t, exec (.illegalLineA rest) s = .next t ∧ Takes 10 s' t) ∧
    (∀ rest, s'.CanTake 11 → ∃ t, exec (.illegalLineF rest) s = .next t ∧ Takes 11 s' t) ∧
    (∀ line rest, line ≠ 0xA → line ≠ 0xF → s'.CanTake 4 → ∃ t, exec (.illegalOther line rest) s = .next t ∧ Takes 4 s' t) ∧
    (s'.CanTake 4 → ∃ t, exec .illegal s = .next t ∧ Takes 4 s' t)

/-- MOVE.W (xxx).L, D0 loads the low half of D0 from the address in its extension words, leaves PC past them, counts 4
cycles and changes nothing else (95 section 3.1). -/
def Obligations.MoveWordLoadsLowHalfOfD0 : Prop :=
  ∀ s : State, s.Permits (s.regs.pc + 2) .four .read → s.Permits (s.word (s.regs.pc + 2)) .two .read →
    exec .moveWAbsLD0 s = .next
      { s with
        regs := { s.regs with
          pc := s.regs.pc + 6
          d := s.regs.d.set 0 (s.regs.d[0].extractLsb' 16 16 ++ s.half (s.word (s.regs.pc + 2))) }
        cyc := s.cyc + 4 }

/-- A memory fault inside an opcode handler keeps what the handler did before it, transfers nothing, counts no cycle,
records the fault and takes vector 2 or 3 (60 R171): any handler whose body ends in a fault; the two reads of MOVE.W; the
immediate of STOP; the two pops of RTE; and, their accesses being the family's (PRESUMED, log 14 to 16), the pop of RTS, the
displacement and the push of LINK, the extension words and the push of JSR. The event record that RTE, RTS, LINK and JSR
show their hooks is free (log 18). -/
def Obligations.HandlerFaultIsTakenAndKeepsEarlierWrites : Prop :=
  (∀ (run : Runner) (body : State → Run Word) (s m : State) (f : MemFault),
    body { s with ctx := .handler } = .abort f m → ({ m with ctx := s.ctx }.recorded f).CanTake f.vector →
    ∃ t, runHandler run body s = .ok () t ∧ Takes f.vector ({ m with ctx := s.ctx }.recorded f) t) ∧
  ∀ s : State,
    FaultsAtAccess .moveWAbsLD0 s s (s.regs.pc + 2) .four .read ∧
    (s.Permits (s.regs.pc + 2) .four .read →
      FaultsAtAccess .moveWAbsLD0 s { s with regs := { s.regs with pc := s.regs.pc + 6 } } (s.word (s.regs.pc + 2)) .two
        .read) ∧
    (s.regs.s = true → FaultsAtAccess .stop s s (s.regs.pc + 2) .two .read) ∧
    (s.regs.s = true → s.Silent → ∃ ev s1, s1 = s.calledAll (s.hookCalls .rte (.event ev)) ∧
      FaultsAtAccess .rte s s1 s.regs.a[7] .two .read ∧
      (s.Permits s.regs.a[7] .two .read → FaultsAtAccess .rte s s1 (s.regs.a[7] + 2) .four .read)) ∧
    (s.Silent → ∃ ev, FaultsAtAccess .rts s (s.calledAll (s.hookCalls .rts (.event ev))) s.regs.a[7] .four .read) ∧
    (∀ an : BitVec 3, s.Silent → ∃ ev s1, s1 = s.calledAll (s.hookCalls .link (.event ev)) ∧
      FaultsAtAccess (.link an) s s1 (s.regs.pc + 2) .two .read ∧
      (s.Permits (s.regs.pc + 2) .two .read →
        FaultsAtAccess (.link an) s { s1 with regs := { s.regs with a := s.regs.a.set 7 (s.regs.a[7] - 4) } }
          (s.regs.a[7] - 4) .four .write)) ∧
    ∀ mode reg : BitVec 3, s.Silent → ∃ ev s1, s1 = s.calledAll (s.hookCalls .jsr (.event ev)) ∧
      (mode = 5 ∨ mode = 6 ∨ (mode = 7 ∧ (reg = 0 ∨ reg = 2 ∨ reg = 3)) →
        FaultsAtAccess (.jsr mode reg) s s1 (s.regs.pc + 2) .two .read) ∧
      FaultsAtAccess (.jsr 7 1) s s1 (s.regs.pc + 2) .four .read ∧
      ∀ target next, isControlMode mode reg = true → controlAddress mode reg s = .ok (target, next) s →
        FaultsAtAccess (.jsr mode reg) s { s1 with regs := { s.regs with a := s.regs.a.set 7 (s.regs.a[7] - 4) } }
          (s.regs.a[7] - 4) .four .write

/-- STOP in supervisor mode leaves PC past the extension word, writes the status word through SetSR and enters the stopped
state (60 R181, 41 R113): every cell is that of SetSR of the immediate but PC, CYC, STOP and STOPPED. -/
def Obligations.StopWritesStatusAndEntersStop : Prop :=
  ∀ s : State, s.regs.s = true → s.Permits (s.regs.pc + 2) .two .read →
    ∃ u, exec (.setSR (s.half (s.regs.pc + 2))) s = .next u ∧
      exec .stop s = .next
        { u with
          regs := { u.regs with pc := s.regs.pc + 4, stopped := true }
          sf := { u.sf with stop := true }
          cyc := s.cyc + 4 }

/-- RTE in supervisor mode calls its hooks, pops SR and PC from the short frame, writes the status word through SetSR and
the PC through SetPC; no byte of memory changes (60 R180). A memory fault of the validation of that PC is the handler's: SR
and A[7] keep what RTE made of them, PC is still at the instruction, no cycle is counted (60 R171). -/
def Obligations.RteRestoresStatusAndPC : Prop :=
  (∀ s : State, s.regs.s = true → s.Observing → s.Permits s.regs.a[7] .two .read →
    s.Permits (s.regs.a[7] + 2) .four .read →
    ∃ u t ev, exec (.setSR (s.half s.regs.a[7])) { s with regs := { s.regs with a := s.regs.a.set 7 (s.regs.a[7] + 6) } } =
        .next u ∧
      exec .rte s = .next t ∧
      t.machine = { u with
        regs := { u.regs with pc := s.word (s.regs.a[7] + 2) }
        cyc := s.cyc + 4 }.machine ∧
      t.calls = .checkNewPC (s.word (s.regs.a[7] + 2)) ::
        ((s.hookCalls .newPC (.address (s.word (s.regs.a[7] + 2)))).reverse ++
          ((s.hookCalls .rte (.event ev)).reverse ++ s.calls))) ∧
  ∀ (s : State) (pc : Word), s.regs.s = true → s.Silent → s.Permits s.regs.a[7] .two .read →
    s.Permits (s.regs.a[7] + 2) .four .read → pc = s.word (s.regs.a[7] + 2) →
    ∃ u ev, exec (.setSR (s.half s.regs.a[7])) { s with regs := { s.regs with a := s.regs.a.set 7 (s.regs.a[7] + 6) } } =
        .next u ∧
      ∀ f, (s.calledAll (s.hookCalls .rte (.event ev))).validatorFault pc = some f →
        FaultsAt .rte s
          { s.calledAll (s.hookCalls .rte (.event ev) ++ (s.hookCalls .newPC (.address pc) ++ [.checkNewPC pc])) with
            regs := u.regs, sf := u.sf } f

/-- STOP and RTE in user mode take the privilege violation, vector 8, PC at the instruction, and do nothing else (60 R183,
R180, R181). -/
def Obligations.PrivilegedWordsTrapInUserMode : Prop :=
  ∀ (s s' : State), s.regs.s = false → s' = { s with cyc := s.cyc + 4 } → s'.CanTake 8 →
    (∃ t, exec .stop s = .next t ∧ Takes 8 s' t) ∧ ∃ t, exec .rte s = .next t ∧ Takes 8 s' t

/-- RTS calls its event port and, as the family does (PRESUMED, log 14), pops PC; no byte of memory changes. The cycles are
log 13's. A memory fault of the validation of that PC is the handler's, A[7] raised and PC still at the instruction
(60 R171). -/
def Obligations.RtsCallsItsPortAndPopsPC : Prop :=
  (∀ s : State, s.Observing → s.Permits s.regs.a[7] .four .read →
    ∃ t ev, exec .rts s = .next t ∧
      t.machine = { s with
        regs := { s.regs with pc := s.word s.regs.a[7], a := s.regs.a.set 7 (s.regs.a[7] + 4) }
        cyc := s.cyc + s.cfg.externalCost }.machine ∧
      t.calls = .checkNewPC (s.word s.regs.a[7]) ::
        ((s.hookCalls .newPC (.address (s.word s.regs.a[7]))).reverse ++
          ((s.hookCalls .rts (.event ev)).reverse ++ s.calls))) ∧
  ∀ (s : State) (pc : Word), s.Silent → s.Permits s.regs.a[7] .four .read → pc = s.word s.regs.a[7] →
    ∃ ev, ∀ f, (s.calledAll (s.hookCalls .rts (.event ev))).validatorFault pc = some f →
      FaultsAt .rts s
        { s.calledAll (s.hookCalls .rts (.event ev) ++ (s.hookCalls .newPC (.address pc) ++ [.checkNewPC pc])) with
          regs := { s.regs with a := s.regs.a.set 7 (s.regs.a[7] + 4) } } f

/-- LINK calls its event port and, as the family does (PRESUMED, log 15), pushes An, points An at it and moves A[7]; the
bytes stored are the four from A[7] - 4. For An = A[7] the pushed value is the lowered A[7]. -/
def Obligations.LinkCallsItsPortAndMakesFrame : Prop :=
  ∀ (an : BitVec 3) (s : State), s.Observing → s.mem.wf = true → s.Permits (s.regs.pc + 2) .two .read →
    s.Permits (s.regs.a[7] - 4) .four .write →
    ∃ t ev, exec (.link an) s = .next t ∧
      t.machine = { s with
        regs := { s.regs with
          pc := s.regs.pc + 4
          a := (s.regs.a.set an.toNat (s.regs.a[7] - 4) an.isLt).set 7
            (s.regs.a[7] - 4 + (s.half (s.regs.pc + 2)).signExtend 32) }
        cyc := s.cyc + s.cfg.externalCost
        mem := t.mem }.machine ∧
      t.word (s.regs.a[7] - 4) = (if an = 7 then s.regs.a[7] - 4 else s.regs.a[an.toFin]) ∧
      (∀ a, Outside a (s.regs.a[7] - 4) 4 → t.byte a = s.byte a) ∧
      t.calls = (s.hookCalls .link (.event ev)).reverse ++ s.calls

/-- The target and the return address of each control addressing mode of JSR, as the family has them (PRESUMED, log 16).
The indexed modes add the register that bits 15 to 12 of the extension word name, whole where bit 11 is set and else its low
half sign-extended, and the low byte of that word sign-extended. -/
def Obligations.JsrTargetOfEachControlMode : Prop :=
  ∀ (r : BitVec 3) (s : State),
    controlAddress 2 r s = .ok (s.regs.a[r.toFin], s.regs.pc + 2) s ∧
    (s.Permits (s.regs.pc + 2) .two .read →
      controlAddress 5 r s = .ok (s.regs.a[r.toFin] + (s.half (s.regs.pc + 2)).signExtend 32, s.regs.pc + 4) s ∧
      controlAddress 7 0 s = .ok ((s.half (s.regs.pc + 2)).signExtend 32, s.regs.pc + 4) s ∧
      controlAddress 7 2 s =
        .ok (s.regs.pc + 2 + (s.half (s.regs.pc + 2)).signExtend 32, s.regs.pc + 4) s ∧
      ∀ (ext : Half) (n : BitVec 3) (x index : Word), ext = s.half (s.regs.pc + 2) → n = ext.extractLsb' 12 3 →
        x = (if ext.getLsbD 15 then s.regs.a[n.toFin] else s.regs.d[n.toFin]) →
        index = (if ext.getLsbD 11 then x else (x.extractLsb' 0 16).signExtend 32) →
        controlAddress 6 r s =
          .ok (s.regs.a[r.toFin] + (index + (ext.extractLsb' 0 8).signExtend 32), s.regs.pc + 4) s ∧
        controlAddress 7 3 s =
          .ok (s.regs.pc + 2 + (index + (ext.extractLsb' 0 8).signExtend 32), s.regs.pc + 4) s) ∧
    (s.Permits (s.regs.pc + 2) .four .read →
      controlAddress 7 1 s = .ok (s.word (s.regs.pc + 2), s.regs.pc + 6) s)

/-- JSR of a control addressing mode calls its event port (40 R91) and, as the family does (PRESUMED, log 16), pushes the
address of the next instruction and installs the target; the bytes stored are the four from A[7] - 4. Any other mode is an
illegal instruction, vector 4 (PRESUMED, log 16). A memory fault of the validation of the target is the handler's, the
return address pushed and PC still at the instruction (60 R171). -/
def Obligations.JsrCallsItsPortAndPushesReturn : Prop :=
  ∀ (mode reg : BitVec 3) (s : State),
    (∀ target next, isControlMode mode reg = true → s.Observing → s.mem.wf = true →
      controlAddress mode reg s = .ok (target, next) s → s.Permits (s.regs.a[7] - 4) .four .write →
      ∃ t ev, exec (.jsr mode reg) s = .next t ∧
        t.machine = { s with
          regs := { s.regs with pc := target, a := s.regs.a.set 7 (s.regs.a[7] - 4) }
          cyc := s.cyc + s.cfg.externalCost
          mem := t.mem }.machine ∧
        t.word (s.regs.a[7] - 4) = next ∧
        (∀ a, Outside a (s.regs.a[7] - 4) 4 → t.byte a = s.byte a) ∧
        t.calls = .checkNewPC target :: ((s.hookCalls .newPC (.address target)).reverse ++
          ((s.hookCalls .jsr (.event ev)).reverse ++ s.calls))) ∧
    (∀ target next, isControlMode mode reg = true → s.Silent → s.mem.wf = true →
      controlAddress mode reg s = .ok (target, next) s → s.Permits (s.regs.a[7] - 4) .four .write →
      ∃ m ev, m =
          { s.calledAll (s.hookCalls .jsr (.event ev) ++
              (s.hookCalls .newPC (.address target) ++ [.checkNewPC target])) with
            regs := { s.regs with a := s.regs.a.set 7 (s.regs.a[7] - 4) }
            mem := (s.setWord (s.regs.a[7] - 4) next).mem } ∧
        m.mem.wf = true ∧ m.word (s.regs.a[7] - 4) = next ∧ (∀ a, Outside a (s.regs.a[7] - 4) 4 → m.byte a = s.byte a) ∧
        ∀ f, (s.calledAll (s.hookCalls .jsr (.event ev))).validatorFault target = some f →
          FaultsAt (.jsr mode reg) s m f) ∧
    ∀ s', isControlMode mode reg = false → s' = { s with cyc := s.cyc + 4 } → s'.CanTake 4 →
      ∃ t, exec (.jsr mode reg) s = .next t ∧ Takes 4 s' t

/-- DISPATCH of a word with no injected handler is the default table's instruction (DESIGN CHOICE, log 12). With one (its
form: log 34) that writes register-file cells, the packed SR among them, the writes are made in order, and either it returns
Done(c) and c is counted (40 R84, R90), or it ends in a memory fault: nothing is counted, the fault is recorded and vector 2
or 3 taken; a store of it that the memory collaborator rejects ends it there, its earlier writes kept (60 R171). Handlers
that invoke operations are not the statement's. -/
def Obligations.DispatchCallsTheSlotAndCountsItsCost : Prop :=
  (∀ (op : Half) (s : State), s.prepared (.handler op) = false → exec (.dispatch op) s = exec (decodeWord op) s) ∧
  ∀ (op : Half) (s s1 : State) (ws : List (RegId × Word)), s.prepared (.handler op) = true →
    s1 = { s.called (.handler op) with regs := ws.foldl (fun r w => r.putCell w.1 w.2) s.regs } →
    ((s.answer (.handler op)).body = ws.map (fun w => HandlerAct.writeCell w.1 w.2) →
      ((s.answer (.handler op)).fault = none →
        exec (.dispatch op) s = .next { s1 with cyc := s.cyc + (s.answer (.handler op)).cost }) ∧
      ∀ f, (s.answer (.handler op)).fault = some f → FaultsAt (.dispatch op) s s1 f) ∧
    ∀ (addr : Word) (size : AccessSize) (v : Word) (after : List HandlerAct),
      (s.answer (.handler op)).body =
        ws.map (fun w => HandlerAct.writeCell w.1 w.2) ++ .store addr size v :: after →
      FaultsAtAccess (.dispatch op) s s1 addr size .write

/-! ## The loop -/

/-- execute() starts an activation, at step E if STOP is set, and is refused while one is in progress with NESTED = 0
(40 R80, R81, R98). How an activation is held in the state is the model's (log 8). -/
def Obligations.ExecuteStartsOrRefusesReentry : Prop :=
  ∀ s : State,
    (s.acts = [] ∨ s.nested = true →
      exec .execute s = .next { s with acts := (if s.sf.stop then .check else .fetch) :: s.acts }) ∧
    (s.acts ≠ [] → s.nested = false → exec .execute s = .refused .reentry)

/-- A step runs the decoded instruction: when the loop is at L and the bytes at PC decode to i, the step is step A (the
query, and where it answers yes whatever `onInstructionBreak` does, PC being read after it: 40 R82), then exec of i, then
steps D and E (40 R80, R82 to R86). That i is the default OpTable's, and `dispatch` where a handler is injected, is the
model's (DESIGN CHOICE, log 12: the block decodes nothing). An instruction whose callback runs a longer `execute()` than the
bound has the step tried again (log 10). -/
def Obligations.StepRunsTheDecodedInstruction : Prop :=
  ∀ (s s1 : State) (i : Instr) (rest : List Phase), s.port = [] → s.acts = .fetch :: rest → BreakQuery s s1 →
    s1.Permits s1.regs.pc .two .read → decode [s1.byte s1.regs.pc, s1.byte (s1.regs.pc + 1)] = .ok (i, []) →
    step s =
      match exec (if s1.prepared (.handler (s1.half s1.regs.pc)) then .dispatch (s1.half s1.regs.pc) else i) s1 with
      | .next s2 =>
        if s2.bound = s1.bound then ((stepD s.runner s2).andThen fun _ s3 => stepE s.runner s3).outcome s
        else .next { s with bound := 2 * s.bound + 1 }
      | .fault e => .fault e
      | .refused e => .refused e

/-- A fault of the opcode fetch is recorded and vector 2 or 3 taken with PC the fetch address; no instruction runs and no
cycle is counted; the iteration goes on at step D (60 R170). The fetch is that of PC after step A, a break location hit or
not (40 R82). -/
def Obligations.FetchFaultIsTakenAndSkipsDispatch : Prop :=
  ∀ (s s1 : State) (f : MemFault) (rest : List Phase), s.port = [] → s.acts = .fetch :: rest → BreakQuery s s1 →
    s1.cfg.policy.verdict s1.regs.pc .two .read = some f.kind → f.addr = s1.regs.pc → f.size = .two → f.dir = .read →
    (s1.recorded f).CanTake f.vector →
    ∃ u, Takes f.vector (s1.recorded f) u ∧
      step s = ((stepD s.runner u).andThen fun _ s3 => stepE s.runner s3).outcome s

/-- One whole iteration at an observing top level, on a NOP with no flag set: PC + 2, CYC + 4, ITER + 1, back at L, and the
calls isBreakLocation(PC), onCycle(false) and, when ITER & SLOW_MASK = 0, onCycleSlowly(false), in that order (40 R80, R82,
R85); nested: no break query, no ITER, no expensive housekeeping (40 R87). -/
def Obligations.IterationOfNopDoesItsHousekeeping : Prop :=
  ∀ (s : State) (rest : List Phase), s.port = [] → s.acts = .fetch :: rest → s.sf.any = false → s.Observing →
    (s.answer (.isBreakLocation s.regs.pc)).yes = false → s.Permits s.regs.pc .two .read →
    s.half s.regs.pc = 0x4E71 → s.prepared (.handler 0x4E71) = false →
    ∃ t, step s = .next t ∧
      t.machine = { s with
        regs := { s.regs with pc := s.regs.pc + 2 }
        cyc := s.cyc + 4
        iter := if s.nested then s.iter else s.iter + 1 }.machine ∧
      t.calls =
        (if s.nested = false ∧ (s.iter + 1) &&& (2 ^ s.cfg.slowBits - 1) = 0 then [.onCycleSlowly false] else []) ++
        (.onCycle false :: ((if s.nested then [] else [.isBreakLocation s.regs.pc]) ++ s.calls))

/-- While execute() runs, the host may at any moment set EOC or BRK or read the cycle count, and any other call outside a
safe point is refused and changes nothing (70 R212, 41 R112). -/
def Obligations.HostCallsWhileRunning : Prop :=
  ∀ (s : State) (i : Call) (rest : List Call), s.port = i :: rest → s.acts ≠ [] →
    (i.val = .setFlag .eoc ∨ i.val = .setFlag .brk ∨ i.val = .cycleCount → step s = exec i.val { s with port := rest }) ∧
    (¬ (i.val = .setFlag .eoc ∨ i.val = .setFlag .brk ∨ i.val = .cycleCount) → ∃ r, step s = .refused r)

/-! ## The special-condition engine and the stopped loop -/

/-- BreakCheck returns BRK or the reply of the query and changes nothing else, BRK not being cleared (41 R108); a pass in
nested mode does only that, whatever flags are set (41 R101). That the query is made also with BRK set is the model's
(DESIGN CHOICE, log 27). -/
def Obligations.BreakCheckAndNestedPassReturnBrkOrQuery : Prop :=
  ∀ (s : State) (i : Instr), s.Observing → i = .breakCheck ∨ (i = .executeSpecial ∧ s.nested = true) →
    ∃ t, exec i s = .next t ∧
      t.machine = { s with ret := some (.bool (s.sf.brk || (s.answer .sessionShouldBreak).yes)) }.machine ∧
      t.calls = .sessionShouldBreak :: s.calls

/-- END_OF_CYCLE is cleared before its callback is called: a callback that only replies leaves it clear, and one that sets
it again leaves it set after the pass, having been called once in it (41 R102, 70 R213). On "handled, stop" the pass returns
true at once: no later branch and no break check, under both readings of SC_EVAL. On any other reply a pass under `chain`
makes its break check and does no other branch (41 R102, R115); that of a sequential pass goes on (O48; here after a callback
that sets the flag again). That the break query is made also with BRK set is log 27's choice, that a clear DOINT keeps the
kernel-stack query from being made log 44's. -/
def Obligations.EndOfCycleHandledStopsThePass : Prop :=
  (∀ s : State, s.Observing → s.nested = false → s.sf.eoc = true →
    ((s.answer (.onEndOfCycle false)).yes = true →
      ∃ t, exec .executeSpecial s = .next t ∧
        t.machine = { s with sf := { s.sf with eoc := false }, ret := some (.bool true) }.machine ∧
        t.calls = .onEndOfCycle false :: s.calls) ∧
    ((s.answer (.onEndOfCycle false)).yes = false → s.cfg.scEval = .chain →
      ∃ t, exec .executeSpecial s = .next t ∧
        t.machine = { s with
          sf := { s.sf with eoc := false }
          ret := some (.bool (s.sf.brk || ((s.called (.onEndOfCycle false)).answer .sessionShouldBreak).yes)) }.machine ∧
        t.calls = .sessionShouldBreak :: .onEndOfCycle false :: s.calls)) ∧
  ∀ s s1 : State, s.nested = false → s.sf.eoc = true → s1 = s.called (.onEndOfCycle false) → s1.Observing →
    (s.answer (.onEndOfCycle false)).acts = [raiseEOC] →
    ((s.answer (.onEndOfCycle false)).yes = true →
      ∃ t, exec .executeSpecial s = .next t ∧ t.sf.eoc = true ∧ t.machine = { s with ret := some (.bool true) }.machine ∧
        t.calls = .onEndOfCycle false :: s.calls) ∧
    ((s.answer (.onEndOfCycle false)).yes = false → s.cfg.scEval = .chain →
      ∃ t, exec .executeSpecial s = .next t ∧ t.sf.eoc = true ∧
        t.machine = { s with ret := some (.bool (s.sf.brk || (s1.answer .sessionShouldBreak).yes)) }.machine ∧
        t.calls = .sessionShouldBreak :: .onEndOfCycle false :: s.calls) ∧
    ((s.answer (.onEndOfCycle false)).yes = false → s.cfg.scEval = .sequential → s.sf.dotrace = false →
      s.sf.stop = false → s.sf.doint = false →
      ∃ t, exec .executeSpecial s = .next t ∧ t.sf.eoc = true ∧
        t.machine = { s with
          lta := if s.sf.trace && s.regs.t1 then some s.regs.pc else s.lta
          sf := { s.sf with
            trace := s.sf.trace && !s.regs.t1
            dotrace := s.sf.trace && s.regs.t1
            int := false
            doint := s.sf.int }
          ret := some (.bool (s.sf.brk || (s1.answer .sessionShouldBreak).yes)) }.machine ∧
        t.calls = .sessionShouldBreak :: .onEndOfCycle false :: s.calls)

/-- A sequential pass with no END_OF_CYCLE, DOTRACE, STOP or DOINT: TRACE with T1 becomes DOTRACE and the last trace address
is PC, INT becomes DOINT, then the break check; nothing else changes (41 R105, R107, R108). Any sequential pass with STOP
clear and no "handled, stop" does, in this order, what its flags say: end of cycle, the trace exception, arming the trace,
the interrupt service, the deferral, the break check (41 R100, R102 to R108; an interrupt in the pass of a trace exception:
60 R177). A pass under `chain` with END_OF_CYCLE and STOP clear does the first of them whose condition holds and the break
check: the trace exception, or arming the trace, or the service, or, where that does not run, the deferral (41 R115). The
break query is made also with BRK set (log 27), the kernel-stack query only with DOINT set (log 44). -/
def Obligations.PassArmsTraceAndDefersInterrupt : Prop :=
  (∀ s : State, s.Observing → s.nested = false → s.cfg.scEval = .sequential → s.sf.eoc = false → s.sf.dotrace = false →
    s.sf.stop = false → s.sf.doint = false →
    ∃ t, exec .executeSpecial s = .next t ∧
      t.machine = { s with
        lta := if s.sf.trace && s.regs.t1 then some s.regs.pc else s.lta
        sf := { s.sf with
          trace := s.sf.trace && !s.regs.t1
          dotrace := s.sf.trace && s.regs.t1
          int := false
          doint := s.sf.int }
        ret := some (.bool (s.sf.brk || (s.answer .sessionShouldBreak).yes)) }.machine ∧
      t.calls = .sessionShouldBreak :: s.calls) ∧
  (∀ s : State, s.Observing → s.nested = false → s.cfg.scEval = .sequential → s.sf.stop = false →
    (s.sf.eoc = true → (s.answer (.onEndOfCycle false)).yes = false) →
    (s.sf.dotrace = true → s.endOfCycled.CanTake 9) →
    (∀ u, FiresTrace s.endOfCycled u → u.traceArmed.CanServe) →
    ∃ u w, FiresTrace s.endOfCycled u ∧ Serves false u.traceArmed w ∧
      exec .executeSpecial s = .next { w.deferred.breakChecked with ret := some (.bool w.deferred.breaks) }) ∧
  ∀ s : State, s.Observing → s.nested = false → s.cfg.scEval = .chain → s.sf.eoc = false → s.sf.stop = false →
    (s.sf.dotrace = true → s.CanTake 9 →
      ∃ u, Takes 9 s u ∧ exec .executeSpecial s = .next { u.breakChecked with ret := some (.bool u.breaks) }) ∧
    (s.sf.dotrace = false → s.sf.trace = true ∧ s.regs.t1 = true →
      exec .executeSpecial s = .next
        { s with
          lta := some s.regs.pc
          sf := { s.sf with trace := false, dotrace := true }
          answers := dropAnswer .sessionShouldBreak s.answers
          calls := .sessionShouldBreak :: s.calls
          ret := some (.bool (s.sf.brk || (s.answer .sessionShouldBreak).yes)) }) ∧
    (s.sf.dotrace = false → s.sf.trace = false ∨ s.regs.t1 = false → s.CanServe →
      ∃ u w, Serves false s u ∧ w = (if s.serves then u else u.deferred) ∧
        exec .executeSpecial s = .next { w.breakChecked with ret := some (.bool w.breaks) })

/-- A pass with DOTRACE set and nothing else but BRK takes the trace vector, which clears DOTRACE, T1 and T0, then makes the
break check (41 R103, 60 R167), under both readings of SC_EVAL. The break query is made also with BRK set (log 27), the
kernel-stack query only with DOINT set (log 44). -/
def Obligations.PassFiresTrace : Prop :=
  ∀ s : State, s.nested = false → s.CanTake 9 → s.handles 9 = false →
    s.sf = { SpecialFlags.none with dotrace := true, brk := s.sf.brk } →
    ∃ u, Enters 9 s u ∧ u.sf.dotrace = false ∧ u.regs.t1 = false ∧ u.regs.t0 = false ∧
      exec .executeSpecial s = .next
        { u with
          answers := dropAnswer .sessionShouldBreak u.answers
          calls := .sessionShouldBreak :: u.calls
          ret := some (.bool (s.sf.brk || (u.answer .sessionShouldBreak).yes)) }

/-- A pass with DOINT set and nothing else but INT and BRK: while the kernel-stack overflow is latched DOINT stays; else
DOINT is cleared and a level above IMASK is served, any other is dropped (41 R106); then INT, set by the service among
others, is deferred (41 R107), under `chain` only where no service ran (41 R115). The break query is made also with BRK set
(log 27). -/
def Obligations.PassServesInterruptAboveMask : Prop :=
  ∀ (s s1 s2 : State), s.Observing → s.nested = false →
    s.sf = { SpecialFlags.none with doint := true, int := s.sf.int, brk := s.sf.brk } →
    s1 = s.called .kernelStackOverflowed →
    s2 = { s1.called .currentInterruptLevel with sf := { s.sf with doint := false } } →
    ((s.answer .kernelStackOverflowed).yes = true →
      ∃ t, exec .executeSpecial s = .next t ∧
        t.machine = { s with
          sf := { s.sf with int := false }
          ret := some (.bool (s.sf.brk || (s1.answer .sessionShouldBreak).yes)) }.machine ∧
        t.calls = .sessionShouldBreak :: .kernelStackOverflowed :: s.calls) ∧
    ((s.answer .kernelStackOverflowed).yes = false →
      ((s1.answer .currentInterruptLevel).level = none ∨
        ∃ l, (s1.answer .currentInterruptLevel).level = some l ∧ l ≤ s.regs.imask.toNat) →
      ∃ t, exec .executeSpecial s = .next t ∧
        t.machine = { s2 with
          sf := { s2.sf with
            int := s.sf.int && decide (s.cfg.scEval = ScEval.chain)
            doint := s.sf.int && decide (s.cfg.scEval = ScEval.sequential) }
          ret := some (.bool (s.sf.brk || (s2.answer .sessionShouldBreak).yes)) }.machine ∧
        t.calls = .sessionShouldBreak :: s2.calls) ∧
    ∀ l v : Nat, (s.answer .kernelStackOverflowed).yes = false → (s1.answer .currentInterruptLevel).level = some l →
      s.regs.imask.toNat < l → l ≤ 7 →
      (v : Int) = ((s2.answer .interruptVectorBase).number.getD s.cfg.vectorBase) + l →
      (s2.called .interruptVectorBase).CanTake v →
      ∃ u, Takes v (s2.called .interruptVectorBase) u ∧
        exec .executeSpecial s = .next
          { u with
            regs := { u.regs with imask := BitVec.ofNat 3 l, stopped := false }
            sf := { u.sf with
              int := decide (s.cfg.scEval = ScEval.chain)
              doint := decide (s.cfg.scEval = ScEval.sequential) }
            answers := dropAnswer .sessionShouldBreak u.answers
            calls := .sessionShouldBreak :: u.calls
            ret := some (.bool (s.sf.brk || (u.answer .sessionShouldBreak).yes)) }

/-- The stopped loop entered with STOP set, by itself or by a pass. It wakes the device once (41 R110), then ticks: a tick
adds IDLE_TICK_CYCLES, the housekeeping runs with sleeping = true after the delay, then the interrupt check and the break
check; the loop goes on while there is no break and STOP is set (41 R109). A pass comes to it after its end-of-cycle branch
with DOTRACE held back, a break ends it with true and clears BRK, and when STOP was cleared the pass goes on (41 R103, R104).
That a tick is a step is the model's (log 8), that the break query is made also with BRK set log 27's, that the kernel-stack
query is made only with DOINT set log 44's, which calls wake the device log 37's. -/
def Obligations.StoppedLoopTicksUntilBreak : Prop :=
  (∀ (s s1 : State), s.Observing → s.sf.stop = true → s.sf.doint = false → s.sf.int = false →
    s1 = s.calledAll (s.wakeCalls ++ [.delay, .onCycle true, .onCycleSlowly true]) →
    ((s.sf.brk || (s1.answer .sessionShouldBreak).yes) = false →
      ∃ t, exec .executeStoppedLoop s = .next t ∧
        t.machine = { s with cyc := s.cyc + s.cfg.idleTick, acts := .idle .port :: s.acts }.machine ∧
        t.calls = .sessionShouldBreak :: s1.calls) ∧
    ((s.sf.brk || (s1.answer .sessionShouldBreak).yes) = true →
      ∃ t, exec .executeStoppedLoop s = .next t ∧
        t.machine = { s with cyc := s.cyc + s.cfg.idleTick, ret := some (.bool true) }.machine ∧
        t.calls = .sessionShouldBreak :: s1.calls)) ∧
  (∀ s : State, s.Observing → s.sf.stop = true → (s.idled s.wakeCalls).CanServe →
    ∃ u, ChecksInterrupt (s.idled s.wakeCalls) u ∧
      exec .executeStoppedLoop s = .next
        (if u.breaks = false ∧ u.sf.stop = true then { u.breakChecked with acts := .idle .port :: s.acts }
        else { u.breakChecked with ret := some (.bool u.breaks) })) ∧
  ∀ s : State, s.Observing → s.nested = false → s.sf.stop = true →
    (s.sf.eoc = true → s.cfg.scEval = .sequential ∧ (s.answer (.onEndOfCycle false)).yes = false) →
    s.passIdled.CanServe →
    ∃ u, ChecksInterrupt s.passIdled u ∧ TickEnds .special s.acts u (exec .executeSpecial s)

/-- A step of an idling execute() with no interrupt flagged is one idle tick: without a break it only adds IDLE_TICK_CYCLES
and goes on idling, fetching no opcode; with one it clears BRK and ends the activation, STOP still set (41 R104, R109). With
an interrupt flagged the tick's check comes before it (41 R111). An execute() entered with STOP set starts at step E, with a
pass that idles, or nested with the break check alone (40 R81, 41 R101). That a tick is a step is the model's (log 8), that
the break query is made also with BRK set log 27's, that the kernel-stack query is made only with DOINT set log 44's. -/
def Obligations.IdleStepIsOneTick : Prop :=
  (∀ (s s1 : State) (rest : List Phase), s.port = [] → s.acts = .idle .loop :: rest → s.Observing → s.sf.stop = true →
    s.sf.doint = false → s.sf.int = false → s1 = s.calledAll [.delay, .onCycle true, .onCycleSlowly true] →
    ((s.sf.brk || (s1.answer .sessionShouldBreak).yes) = false →
      ∃ t, step s = .next t ∧ t.machine = { s with cyc := s.cyc + s.cfg.idleTick }.machine ∧
        t.calls = .sessionShouldBreak :: s1.calls) ∧
    ((s.sf.brk || (s1.answer .sessionShouldBreak).yes) = true →
      ∃ t, step s = .next t ∧
        t.machine = { s with cyc := s.cyc + s.cfg.idleTick, sf := { s.sf with brk := false }, acts := rest }.machine ∧
        t.calls = .sessionShouldBreak :: s1.calls)) ∧
  (∀ (s : State) (rest : List Phase), s.port = [] → s.acts = .idle .loop :: rest → s.Observing →
    (s.idled []).CanServe → ∃ u, ChecksInterrupt (s.idled []) u ∧ TickEnds .loop rest u (step s)) ∧
  (∀ (s : State) (rest : List Phase), s.port = [] → s.acts = .check :: rest → s.Observing → s.nested = false →
    s.sf.stop = true → (s.sf.eoc = true → s.cfg.scEval = .sequential ∧ (s.answer (.onEndOfCycle false)).yes = false) →
    s.passIdled.CanServe → ∃ u, ChecksInterrupt s.passIdled u ∧ TickEnds .loop rest u (step s)) ∧
  ∀ (s : State) (rest : List Phase), s.port = [] → s.acts = .check :: rest → s.Observing → s.nested = true →
    s.sf.stop = true →
    step s = .next
      { s with
        answers := dropAnswer .sessionShouldBreak s.answers
        calls := .sessionShouldBreak :: s.calls
        acts := if s.sf.brk || (s.answer .sessionShouldBreak).yes then rest else .fetch :: rest }

/-- An interrupt above IMASK served while idling clears STOP and STOPPED: the check of an idle tick with DOINT set serves it,
sets the mask, and leaves the request flagged again (41 R111). -/
def Obligations.IdleCheckServesInterruptAndClearsStop : Prop :=
  ∀ (run : Runner) (s s1 s2 : State) (l v : Nat), s.Observing → s.sf.doint = true →
    (s.answer .kernelStackOverflowed).yes = false → s1 = s.called .kernelStackOverflowed →
    (s1.answer .currentInterruptLevel).level = some l → s.regs.imask.toNat < l → l ≤ 7 →
    s2 = { s1.called .currentInterruptLevel with sf := { s.sf with doint := false } } →
    (v : Int) = ((s2.answer .interruptVectorBase).number.getD s.cfg.vectorBase) + l →
    (s2.called .interruptVectorBase).CanTake v →
    ∃ u t, Takes v (s2.called .interruptVectorBase) u ∧ interruptBranches run true s = .ok () t ∧
      t = { u with
        regs := { u.regs with imask := BitVec.ofNat 3 l, stopped := false }
        sf := { u.sf with
          stop := false
          int := decide (s.cfg.scEval = ScEval.chain)
          doint := decide (s.cfg.scEval = ScEval.sequential) } }

/-! ## Reset -/

/-- reset(true) reads the reset vector at ROM_BASE, writes every cell of 10 R32's table, leaves D, A[0..6], USP, SSP, NESTED
and HOOKS alone, and installs the PC through SetPC (70 R201, 10 R32); reset(false) clears CYC and LTA, validates the PC, and
changes nothing else (70 R202, as log 32 reads it, DEDUCED). Both from a session callback, or from anywhere but a handler
while no execute() is in progress (70 R200, R212). -/
def Obligations.ResetWritesItsTable : Prop :=
  ∀ s : State, s.nested = false → s.ctx ≠ .handler → s.acts = [] ∨ s.ctx = .session → s.Observing →
    (s.PermitsFull s.cfg.romBase → s.PermitsFull (s.cfg.romBase + 4) →
      ∃ t, exec (.reset true) s = .next t ∧
        t.machine = { s with
          regs := { RegFile.reset with
            d := s.regs.d
            a := s.regs.a.set 7 (s.word s.cfg.romBase)
            pc := s.word (s.cfg.romBase + 4)
            usp := s.regs.usp
            ssp := s.regs.ssp }
          sf := SpecialFlags.none
          cyc := 0
          lta := none
          frec := none
          iter := 0 }.machine ∧
        t.calls = .checkNewPC (s.word (s.cfg.romBase + 4)) ::
          ((s.hookCalls .newPC (.address (s.word (s.cfg.romBase + 4)))).reverse ++ s.calls)) ∧
    ∃ t, exec (.reset false) s = .next t ∧ t.machine = { s with cyc := 0, lta := none }.machine ∧
      t.calls = .checkNewPC s.regs.pc :: s.calls

/-- reset is refused with NESTED = 1, from an opcode handler, and, while execute() runs, from anywhere but a session
callback (70 R200); a reset vector that cannot be read, and a memory fault of the validation of its PC, or of the PC in
reset(false), are the double fault (60 R172). That reset(false) validates the PC is 70 R202 as log 32 reads it (DEDUCED). -/
def Obligations.ResetRefusals : Prop :=
  (∀ (hw : Bool) (s : State), s.nested = true ∨ s.ctx = .handler ∨ (s.acts ≠ [] ∧ s.ctx ≠ .session) →
    exec (.reset hw) s = .refused .resetRefused) ∧
  ∀ s : State, s.nested = false → s.ctx ≠ .handler → s.acts = [] ∨ s.ctx = .session →
    (¬ s.PermitsFull s.cfg.romBase ∨ ¬ s.PermitsFull (s.cfg.romBase + 4) →
      exec (.reset true) s = .refused .doubleFault) ∧
    (∀ m, s.PermitsFull s.cfg.romBase → s.PermitsFull (s.cfg.romBase + 4) → s.Silent →
      s.validatorFault (s.word (s.cfg.romBase + 4)) = some m → exec (.reset true) s = .refused .doubleFault) ∧
    ∀ m, s.Silent → (s.answer (.checkNewPC s.regs.pc)).fault = some m → exec (.reset false) s = .refused .doubleFault

/-- State.reset is what reset(true) makes of itself, but for the validation call noted: it is a machine right after a
hardware reset, with every invariant of the model (10 R32; the values of the unstated cells are log 1's). -/
def Obligations.ResetStateIsRightAfterReset : Prop :=
  exec (.reset true) State.reset = .next { State.reset with calls := [.checkNewPC 0] } ∧
    State.reset.regs.sr = 0x2700 ∧ State.reset.regs.pack = 0x2700 ∧ State.reset.FormInv ∧ State.reset.SRMasked ∧
    State.reset.SequencingInv

/-! ## Memory -/

/-- The memory port is big-endian and touches only its bytes: a 32-bit write puts the most significant byte first, its
halves read back as 16-bit values (20 R42). That every other byte is as before, at every other of the 2^32 addresses, is the
model's (DESIGN CHOICE, log 41: 20 R40 leaves a bus that ignores high address bits to the collaborator). -/
def Obligations.MemoryPortIsBigEndian : Prop :=
  ∀ (s : State) (a v : Word), s.mem.wf = true → s.Permits a .four .write →
    ∃ t, memWriteWord a v s = .ok () t ∧ t.byte a = v.extractLsb' 24 8 ∧ t.byte (a + 1) = v.extractLsb' 16 8 ∧
      t.byte (a + 2) = v.extractLsb' 8 8 ∧ t.byte (a + 3) = v.extractLsb' 0 8 ∧ t.half a = v.extractLsb' 16 16 ∧
      t.half (a + 2) = v.extractLsb' 0 16 ∧ (∀ c, Outside c a 4 → t.byte c = s.byte c) ∧ { t with mem := s.mem } = s

/-- A faulting access transfers nothing: under the default policy a 16- or 32-bit access at an odd address is an address
error and one with a byte that is not mapped, the first or a later one, a bus error, and the state is as before (20 R43,
R44; which of the two wins is log 20's). -/
def Obligations.FaultingAccessTransfersNothing : Prop :=
  ∀ (s : State) (a : Word) (size : AccessSize) (dir : Dir), s.cfg.policy.rejections = [] → s.cfg.policy.checkOdd = true →
    (size ≠ .one → a.getLsbD 0 = true →
      access a size dir s = .abort { kind := .address, addr := a, size := size, dir := dir } s) ∧
    (size = .one ∨ a.getLsbD 0 = false →
      (∃ k, k < (match size with | .one => 1 | .two => 2 | .four => 4) ∧
        ∀ r ∈ s.cfg.policy.mapped, r.size ≤ (a + BitVec.ofNat 32 k - r.base).toNat) →
      access a size dir s = .abort { kind := .bus, addr := a, size := size, dir := dir } s)

/-! ## Invariants -/

/-- Every step keeps memory canonical and the hook keys in range, and changes no parameter of the platform, whatever the
environment does (42 R120, 00 R5). The unmodelled bits of the packed status word stay 0 as long as no injected handler
writes one of them: a plain write of SR is a handler's right (70 R216; log 22). -/
def Obligations.StepKeepsForm : Prop :=
  ∀ s t : State, s.FormInv → step s = .next t →
    t.FormInv ∧ t.cfg = s.cfg ∧
      (s.HandlersKeepSRMasked → s.SRMasked → t.HandlersKeepSRMasked ∧ t.SRMasked)

/-- Every step leaves no callback acting and no hook list being invoked, at most one activation in progress, and STOP set
while it idles, whatever the environment does and runs inside its callbacks (41 R109, 70 R212). The fields it speaks of
are the model's own (log 8, 21). -/
def Obligations.StepKeepsSequencing : Prop :=
  ∀ s t : State, s.SequencingInv → step s = .next t → t.SequencingInv
end

