-- ==== Sys2Proof/Laws/State.lean ====
section
/-! SUPPORT. What each named update of the state does to each field, by definition. -/

namespace Sys2Proof.Machine

variable (s : State)

@[simp] theorem State.packSR_regs : s.packSR.regs = { s.regs with sr := s.regs.pack } := rfl
@[simp] theorem State.packSR_sf : s.packSR.sf = s.sf := rfl
@[simp] theorem State.packSR_cyc : s.packSR.cyc = s.cyc := rfl
@[simp] theorem State.packSR_lta : s.packSR.lta = s.lta := rfl
@[simp] theorem State.packSR_frec : s.packSR.frec = s.frec := rfl
@[simp] theorem State.packSR_nested : s.packSR.nested = s.nested := rfl
@[simp] theorem State.packSR_iter : s.packSR.iter = s.iter := rfl
@[simp] theorem State.packSR_hooks : s.packSR.hooks = s.hooks := rfl
@[simp] theorem State.packSR_mem : s.packSR.mem = s.mem := rfl
@[simp] theorem State.packSR_files : s.packSR.files = s.files := rfl
@[simp] theorem State.packSR_cfg : s.packSR.cfg = s.cfg := rfl
@[simp] theorem State.packSR_acts : s.packSR.acts = s.acts := rfl
@[simp] theorem State.packSR_port : s.packSR.port = s.port := rfl
@[simp] theorem State.packSR_answers : s.packSR.answers = s.answers := rfl
@[simp] theorem State.packSR_calls : s.packSR.calls = s.calls := rfl
@[simp] theorem State.packSR_ret : s.packSR.ret = s.ret := rfl
@[simp] theorem State.packSR_ctx : s.packSR.ctx = s.ctx := rfl
@[simp] theorem State.packSR_busy : s.packSR.busy = s.busy := rfl
@[simp] theorem State.packSR_bound : s.packSR.bound = s.bound := rfl

@[simp] theorem State.putFlag_regs (k : Flag) (on : Bool) : (s.putFlag k on).regs = s.regs := rfl
@[simp] theorem State.putFlag_sf (k : Flag) (on : Bool) : (s.putFlag k on).sf = s.sf.put k on := rfl
@[simp] theorem State.putFlag_cyc (k : Flag) (on : Bool) : (s.putFlag k on).cyc = s.cyc := rfl
@[simp] theorem State.putFlag_lta (k : Flag) (on : Bool) : (s.putFlag k on).lta = s.lta := rfl
@[simp] theorem State.putFlag_frec (k : Flag) (on : Bool) : (s.putFlag k on).frec = s.frec := rfl
@[simp] theorem State.putFlag_nested (k : Flag) (on : Bool) : (s.putFlag k on).nested = s.nested := rfl
@[simp] theorem State.putFlag_iter (k : Flag) (on : Bool) : (s.putFlag k on).iter = s.iter := rfl
@[simp] theorem State.putFlag_hooks (k : Flag) (on : Bool) : (s.putFlag k on).hooks = s.hooks := rfl
@[simp] theorem State.putFlag_mem (k : Flag) (on : Bool) : (s.putFlag k on).mem = s.mem := rfl
@[simp] theorem State.putFlag_files (k : Flag) (on : Bool) : (s.putFlag k on).files = s.files := rfl
@[simp] theorem State.putFlag_cfg (k : Flag) (on : Bool) : (s.putFlag k on).cfg = s.cfg := rfl
@[simp] theorem State.putFlag_acts (k : Flag) (on : Bool) : (s.putFlag k on).acts = s.acts := rfl
@[simp] theorem State.putFlag_port (k : Flag) (on : Bool) : (s.putFlag k on).port = s.port := rfl
@[simp] theorem State.putFlag_answers (k : Flag) (on : Bool) : (s.putFlag k on).answers = s.answers := rfl
@[simp] theorem State.putFlag_calls (k : Flag) (on : Bool) : (s.putFlag k on).calls = s.calls := rfl
@[simp] theorem State.putFlag_ret (k : Flag) (on : Bool) : (s.putFlag k on).ret = s.ret := rfl
@[simp] theorem State.putFlag_ctx (k : Flag) (on : Bool) : (s.putFlag k on).ctx = s.ctx := rfl
@[simp] theorem State.putFlag_busy (k : Flag) (on : Bool) : (s.putFlag k on).busy = s.busy := rfl
@[simp] theorem State.putFlag_bound (k : Flag) (on : Bool) : (s.putFlag k on).bound = s.bound := rfl

@[simp] theorem State.clearTrace_regs : s.clearTrace.regs = { s.regs with t1 := false, t0 := false } := rfl
@[simp] theorem State.clearTrace_sf : s.clearTrace.sf = { s.sf with trace := false, dotrace := false } := rfl
@[simp] theorem State.clearTrace_cyc : s.clearTrace.cyc = s.cyc := rfl
@[simp] theorem State.clearTrace_lta : s.clearTrace.lta = s.lta := rfl
@[simp] theorem State.clearTrace_frec : s.clearTrace.frec = s.frec := rfl
@[simp] theorem State.clearTrace_nested : s.clearTrace.nested = s.nested := rfl
@[simp] theorem State.clearTrace_iter : s.clearTrace.iter = s.iter := rfl
@[simp] theorem State.clearTrace_hooks : s.clearTrace.hooks = s.hooks := rfl
@[simp] theorem State.clearTrace_mem : s.clearTrace.mem = s.mem := rfl
@[simp] theorem State.clearTrace_files : s.clearTrace.files = s.files := rfl
@[simp] theorem State.clearTrace_cfg : s.clearTrace.cfg = s.cfg := rfl
@[simp] theorem State.clearTrace_acts : s.clearTrace.acts = s.acts := rfl
@[simp] theorem State.clearTrace_port : s.clearTrace.port = s.port := rfl
@[simp] theorem State.clearTrace_answers : s.clearTrace.answers = s.answers := rfl
@[simp] theorem State.clearTrace_calls : s.clearTrace.calls = s.calls := rfl
@[simp] theorem State.clearTrace_ret : s.clearTrace.ret = s.ret := rfl
@[simp] theorem State.clearTrace_ctx : s.clearTrace.ctx = s.ctx := rfl
@[simp] theorem State.clearTrace_busy : s.clearTrace.busy = s.busy := rfl
@[simp] theorem State.clearTrace_bound : s.clearTrace.bound = s.bound := rfl

@[simp] theorem State.enterStop_regs : s.enterStop.regs = { s.regs with stopped := true } := rfl
@[simp] theorem State.enterStop_sf : s.enterStop.sf = { s.sf with stop := true } := rfl
@[simp] theorem State.enterStop_cyc : s.enterStop.cyc = s.cyc := rfl
@[simp] theorem State.enterStop_lta : s.enterStop.lta = s.lta := rfl
@[simp] theorem State.enterStop_frec : s.enterStop.frec = s.frec := rfl
@[simp] theorem State.enterStop_nested : s.enterStop.nested = s.nested := rfl
@[simp] theorem State.enterStop_iter : s.enterStop.iter = s.iter := rfl
@[simp] theorem State.enterStop_hooks : s.enterStop.hooks = s.hooks := rfl
@[simp] theorem State.enterStop_mem : s.enterStop.mem = s.mem := rfl
@[simp] theorem State.enterStop_files : s.enterStop.files = s.files := rfl
@[simp] theorem State.enterStop_cfg : s.enterStop.cfg = s.cfg := rfl
@[simp] theorem State.enterStop_acts : s.enterStop.acts = s.acts := rfl
@[simp] theorem State.enterStop_port : s.enterStop.port = s.port := rfl
@[simp] theorem State.enterStop_answers : s.enterStop.answers = s.answers := rfl
@[simp] theorem State.enterStop_calls : s.enterStop.calls = s.calls := rfl
@[simp] theorem State.enterStop_ret : s.enterStop.ret = s.ret := rfl
@[simp] theorem State.enterStop_ctx : s.enterStop.ctx = s.ctx := rfl
@[simp] theorem State.enterStop_busy : s.enterStop.busy = s.busy := rfl
@[simp] theorem State.enterStop_bound : s.enterStop.bound = s.bound := rfl

@[simp] theorem State.putPC_regs (pc : Word) : (s.putPC pc).regs = { s.regs with pc := pc } := rfl
@[simp] theorem State.putPC_sf (pc : Word) : (s.putPC pc).sf = s.sf := rfl
@[simp] theorem State.putPC_cyc (pc : Word) : (s.putPC pc).cyc = s.cyc := rfl
@[simp] theorem State.putPC_lta (pc : Word) : (s.putPC pc).lta = s.lta := rfl
@[simp] theorem State.putPC_frec (pc : Word) : (s.putPC pc).frec = s.frec := rfl
@[simp] theorem State.putPC_nested (pc : Word) : (s.putPC pc).nested = s.nested := rfl
@[simp] theorem State.putPC_iter (pc : Word) : (s.putPC pc).iter = s.iter := rfl
@[simp] theorem State.putPC_hooks (pc : Word) : (s.putPC pc).hooks = s.hooks := rfl
@[simp] theorem State.putPC_mem (pc : Word) : (s.putPC pc).mem = s.mem := rfl
@[simp] theorem State.putPC_files (pc : Word) : (s.putPC pc).files = s.files := rfl
@[simp] theorem State.putPC_cfg (pc : Word) : (s.putPC pc).cfg = s.cfg := rfl
@[simp] theorem State.putPC_acts (pc : Word) : (s.putPC pc).acts = s.acts := rfl
@[simp] theorem State.putPC_port (pc : Word) : (s.putPC pc).port = s.port := rfl
@[simp] theorem State.putPC_answers (pc : Word) : (s.putPC pc).answers = s.answers := rfl
@[simp] theorem State.putPC_calls (pc : Word) : (s.putPC pc).calls = s.calls := rfl
@[simp] theorem State.putPC_ret (pc : Word) : (s.putPC pc).ret = s.ret := rfl
@[simp] theorem State.putPC_ctx (pc : Word) : (s.putPC pc).ctx = s.ctx := rfl
@[simp] theorem State.putPC_busy (pc : Word) : (s.putPC pc).busy = s.busy := rfl
@[simp] theorem State.putPC_bound (pc : Word) : (s.putPC pc).bound = s.bound := rfl

@[simp] theorem State.putSP_regs (sp : Word) : (s.putSP sp).regs = { s.regs with a := s.regs.a.set 7 sp } := rfl
@[simp] theorem State.putSP_sf (sp : Word) : (s.putSP sp).sf = s.sf := rfl
@[simp] theorem State.putSP_cyc (sp : Word) : (s.putSP sp).cyc = s.cyc := rfl
@[simp] theorem State.putSP_lta (sp : Word) : (s.putSP sp).lta = s.lta := rfl
@[simp] theorem State.putSP_frec (sp : Word) : (s.putSP sp).frec = s.frec := rfl
@[simp] theorem State.putSP_nested (sp : Word) : (s.putSP sp).nested = s.nested := rfl
@[simp] theorem State.putSP_iter (sp : Word) : (s.putSP sp).iter = s.iter := rfl
@[simp] theorem State.putSP_hooks (sp : Word) : (s.putSP sp).hooks = s.hooks := rfl
@[simp] theorem State.putSP_mem (sp : Word) : (s.putSP sp).mem = s.mem := rfl
@[simp] theorem State.putSP_files (sp : Word) : (s.putSP sp).files = s.files := rfl
@[simp] theorem State.putSP_cfg (sp : Word) : (s.putSP sp).cfg = s.cfg := rfl
@[simp] theorem State.putSP_acts (sp : Word) : (s.putSP sp).acts = s.acts := rfl
@[simp] theorem State.putSP_port (sp : Word) : (s.putSP sp).port = s.port := rfl
@[simp] theorem State.putSP_answers (sp : Word) : (s.putSP sp).answers = s.answers := rfl
@[simp] theorem State.putSP_calls (sp : Word) : (s.putSP sp).calls = s.calls := rfl
@[simp] theorem State.putSP_ret (sp : Word) : (s.putSP sp).ret = s.ret := rfl
@[simp] theorem State.putSP_ctx (sp : Word) : (s.putSP sp).ctx = s.ctx := rfl
@[simp] theorem State.putSP_busy (sp : Word) : (s.putSP sp).busy = s.busy := rfl
@[simp] theorem State.putSP_bound (sp : Word) : (s.putSP sp).bound = s.bound := rfl

@[simp] theorem State.putA_regs (n : Fin 8) (v : Word) :
    (s.putA n v).regs = { s.regs with a := s.regs.a.set n v } :=
  rfl
@[simp] theorem State.putA_sf (n : Fin 8) (v : Word) : (s.putA n v).sf = s.sf := rfl
@[simp] theorem State.putA_cyc (n : Fin 8) (v : Word) : (s.putA n v).cyc = s.cyc := rfl
@[simp] theorem State.putA_lta (n : Fin 8) (v : Word) : (s.putA n v).lta = s.lta := rfl
@[simp] theorem State.putA_frec (n : Fin 8) (v : Word) : (s.putA n v).frec = s.frec := rfl
@[simp] theorem State.putA_nested (n : Fin 8) (v : Word) : (s.putA n v).nested = s.nested := rfl
@[simp] theorem State.putA_iter (n : Fin 8) (v : Word) : (s.putA n v).iter = s.iter := rfl
@[simp] theorem State.putA_hooks (n : Fin 8) (v : Word) : (s.putA n v).hooks = s.hooks := rfl
@[simp] theorem State.putA_mem (n : Fin 8) (v : Word) : (s.putA n v).mem = s.mem := rfl
@[simp] theorem State.putA_files (n : Fin 8) (v : Word) : (s.putA n v).files = s.files := rfl
@[simp] theorem State.putA_cfg (n : Fin 8) (v : Word) : (s.putA n v).cfg = s.cfg := rfl
@[simp] theorem State.putA_acts (n : Fin 8) (v : Word) : (s.putA n v).acts = s.acts := rfl
@[simp] theorem State.putA_port (n : Fin 8) (v : Word) : (s.putA n v).port = s.port := rfl
@[simp] theorem State.putA_answers (n : Fin 8) (v : Word) : (s.putA n v).answers = s.answers := rfl
@[simp] theorem State.putA_calls (n : Fin 8) (v : Word) : (s.putA n v).calls = s.calls := rfl
@[simp] theorem State.putA_ret (n : Fin 8) (v : Word) : (s.putA n v).ret = s.ret := rfl
@[simp] theorem State.putA_ctx (n : Fin 8) (v : Word) : (s.putA n v).ctx = s.ctx := rfl
@[simp] theorem State.putA_busy (n : Fin 8) (v : Word) : (s.putA n v).busy = s.busy := rfl
@[simp] theorem State.putA_bound (n : Fin 8) (v : Word) : (s.putA n v).bound = s.bound := rfl

@[simp] theorem State.setSR_regs (v : Half) :
    (s.setSR v).regs = ({ s.regs.unpack v with sr := v &&& srMask } : RegFile).swapStacks s.regs.s :=
  rfl
@[simp] theorem State.setSR_sf (v : Half) : (s.setSR v).sf = { s.sf with int := true, trace := v.getLsbD 15 } := rfl
@[simp] theorem State.setSR_cyc (v : Half) : (s.setSR v).cyc = s.cyc := rfl
@[simp] theorem State.setSR_lta (v : Half) : (s.setSR v).lta = s.lta := rfl
@[simp] theorem State.setSR_frec (v : Half) : (s.setSR v).frec = s.frec := rfl
@[simp] theorem State.setSR_nested (v : Half) : (s.setSR v).nested = s.nested := rfl
@[simp] theorem State.setSR_iter (v : Half) : (s.setSR v).iter = s.iter := rfl
@[simp] theorem State.setSR_hooks (v : Half) : (s.setSR v).hooks = s.hooks := rfl
@[simp] theorem State.setSR_mem (v : Half) : (s.setSR v).mem = s.mem := rfl
@[simp] theorem State.setSR_files (v : Half) : (s.setSR v).files = s.files := rfl
@[simp] theorem State.setSR_cfg (v : Half) : (s.setSR v).cfg = s.cfg := rfl
@[simp] theorem State.setSR_acts (v : Half) : (s.setSR v).acts = s.acts := rfl
@[simp] theorem State.setSR_port (v : Half) : (s.setSR v).port = s.port := rfl
@[simp] theorem State.setSR_answers (v : Half) : (s.setSR v).answers = s.answers := rfl
@[simp] theorem State.setSR_calls (v : Half) : (s.setSR v).calls = s.calls := rfl
@[simp] theorem State.setSR_ret (v : Half) : (s.setSR v).ret = s.ret := rfl
@[simp] theorem State.setSR_ctx (v : Half) : (s.setSR v).ctx = s.ctx := rfl
@[simp] theorem State.setSR_busy (v : Half) : (s.setSR v).busy = s.busy := rfl
@[simp] theorem State.setSR_bound (v : Half) : (s.setSR v).bound = s.bound := rfl

@[simp] theorem State.addCycles_regs (c : Word) : (s.addCycles c).regs = s.regs := rfl
@[simp] theorem State.addCycles_sf (c : Word) : (s.addCycles c).sf = s.sf := rfl
@[simp] theorem State.addCycles_cyc (c : Word) : (s.addCycles c).cyc = s.cyc + c := rfl
@[simp] theorem State.addCycles_lta (c : Word) : (s.addCycles c).lta = s.lta := rfl
@[simp] theorem State.addCycles_frec (c : Word) : (s.addCycles c).frec = s.frec := rfl
@[simp] theorem State.addCycles_nested (c : Word) : (s.addCycles c).nested = s.nested := rfl
@[simp] theorem State.addCycles_iter (c : Word) : (s.addCycles c).iter = s.iter := rfl
@[simp] theorem State.addCycles_hooks (c : Word) : (s.addCycles c).hooks = s.hooks := rfl
@[simp] theorem State.addCycles_mem (c : Word) : (s.addCycles c).mem = s.mem := rfl
@[simp] theorem State.addCycles_files (c : Word) : (s.addCycles c).files = s.files := rfl
@[simp] theorem State.addCycles_cfg (c : Word) : (s.addCycles c).cfg = s.cfg := rfl
@[simp] theorem State.addCycles_acts (c : Word) : (s.addCycles c).acts = s.acts := rfl
@[simp] theorem State.addCycles_port (c : Word) : (s.addCycles c).port = s.port := rfl
@[simp] theorem State.addCycles_answers (c : Word) : (s.addCycles c).answers = s.answers := rfl
@[simp] theorem State.addCycles_calls (c : Word) : (s.addCycles c).calls = s.calls := rfl
@[simp] theorem State.addCycles_ret (c : Word) : (s.addCycles c).ret = s.ret := rfl
@[simp] theorem State.addCycles_ctx (c : Word) : (s.addCycles c).ctx = s.ctx := rfl
@[simp] theorem State.addCycles_busy (c : Word) : (s.addCycles c).busy = s.busy := rfl
@[simp] theorem State.addCycles_bound (c : Word) : (s.addCycles c).bound = s.bound := rfl

@[simp] theorem State.returns_regs (r : Ret) : (s.returns r).regs = s.regs := rfl
@[simp] theorem State.returns_sf (r : Ret) : (s.returns r).sf = s.sf := rfl
@[simp] theorem State.returns_cyc (r : Ret) : (s.returns r).cyc = s.cyc := rfl
@[simp] theorem State.returns_lta (r : Ret) : (s.returns r).lta = s.lta := rfl
@[simp] theorem State.returns_frec (r : Ret) : (s.returns r).frec = s.frec := rfl
@[simp] theorem State.returns_nested (r : Ret) : (s.returns r).nested = s.nested := rfl
@[simp] theorem State.returns_iter (r : Ret) : (s.returns r).iter = s.iter := rfl
@[simp] theorem State.returns_hooks (r : Ret) : (s.returns r).hooks = s.hooks := rfl
@[simp] theorem State.returns_mem (r : Ret) : (s.returns r).mem = s.mem := rfl
@[simp] theorem State.returns_files (r : Ret) : (s.returns r).files = s.files := rfl
@[simp] theorem State.returns_cfg (r : Ret) : (s.returns r).cfg = s.cfg := rfl
@[simp] theorem State.returns_acts (r : Ret) : (s.returns r).acts = s.acts := rfl
@[simp] theorem State.returns_port (r : Ret) : (s.returns r).port = s.port := rfl
@[simp] theorem State.returns_answers (r : Ret) : (s.returns r).answers = s.answers := rfl
@[simp] theorem State.returns_calls (r : Ret) : (s.returns r).calls = s.calls := rfl
@[simp] theorem State.returns_ret (r : Ret) : (s.returns r).ret = some r := rfl
@[simp] theorem State.returns_ctx (r : Ret) : (s.returns r).ctx = s.ctx := rfl
@[simp] theorem State.returns_busy (r : Ret) : (s.returns r).busy = s.busy := rfl
@[simp] theorem State.returns_bound (r : Ret) : (s.returns r).bound = s.bound := rfl

@[simp] theorem State.withCtx_regs (c : Ctx) : (s.withCtx c).regs = s.regs := rfl
@[simp] theorem State.withCtx_sf (c : Ctx) : (s.withCtx c).sf = s.sf := rfl
@[simp] theorem State.withCtx_cyc (c : Ctx) : (s.withCtx c).cyc = s.cyc := rfl
@[simp] theorem State.withCtx_lta (c : Ctx) : (s.withCtx c).lta = s.lta := rfl
@[simp] theorem State.withCtx_frec (c : Ctx) : (s.withCtx c).frec = s.frec := rfl
@[simp] theorem State.withCtx_nested (c : Ctx) : (s.withCtx c).nested = s.nested := rfl
@[simp] theorem State.withCtx_iter (c : Ctx) : (s.withCtx c).iter = s.iter := rfl
@[simp] theorem State.withCtx_hooks (c : Ctx) : (s.withCtx c).hooks = s.hooks := rfl
@[simp] theorem State.withCtx_mem (c : Ctx) : (s.withCtx c).mem = s.mem := rfl
@[simp] theorem State.withCtx_files (c : Ctx) : (s.withCtx c).files = s.files := rfl
@[simp] theorem State.withCtx_cfg (c : Ctx) : (s.withCtx c).cfg = s.cfg := rfl
@[simp] theorem State.withCtx_acts (c : Ctx) : (s.withCtx c).acts = s.acts := rfl
@[simp] theorem State.withCtx_port (c : Ctx) : (s.withCtx c).port = s.port := rfl
@[simp] theorem State.withCtx_answers (c : Ctx) : (s.withCtx c).answers = s.answers := rfl
@[simp] theorem State.withCtx_calls (c : Ctx) : (s.withCtx c).calls = s.calls := rfl
@[simp] theorem State.withCtx_ret (c : Ctx) : (s.withCtx c).ret = s.ret := rfl
@[simp] theorem State.withCtx_ctx (c : Ctx) : (s.withCtx c).ctx = c := rfl
@[simp] theorem State.withCtx_busy (c : Ctx) : (s.withCtx c).busy = s.busy := rfl
@[simp] theorem State.withCtx_bound (c : Ctx) : (s.withCtx c).bound = s.bound := rfl

@[simp] theorem State.withBusy_regs (b : List HookKey) : (s.withBusy b).regs = s.regs := rfl
@[simp] theorem State.withBusy_sf (b : List HookKey) : (s.withBusy b).sf = s.sf := rfl
@[simp] theorem State.withBusy_cyc (b : List HookKey) : (s.withBusy b).cyc = s.cyc := rfl
@[simp] theorem State.withBusy_lta (b : List HookKey) : (s.withBusy b).lta = s.lta := rfl
@[simp] theorem State.withBusy_frec (b : List HookKey) : (s.withBusy b).frec = s.frec := rfl
@[simp] theorem State.withBusy_nested (b : List HookKey) : (s.withBusy b).nested = s.nested := rfl
@[simp] theorem State.withBusy_iter (b : List HookKey) : (s.withBusy b).iter = s.iter := rfl
@[simp] theorem State.withBusy_hooks (b : List HookKey) : (s.withBusy b).hooks = s.hooks := rfl
@[simp] theorem State.withBusy_mem (b : List HookKey) : (s.withBusy b).mem = s.mem := rfl
@[simp] theorem State.withBusy_files (b : List HookKey) : (s.withBusy b).files = s.files := rfl
@[simp] theorem State.withBusy_cfg (b : List HookKey) : (s.withBusy b).cfg = s.cfg := rfl
@[simp] theorem State.withBusy_acts (b : List HookKey) : (s.withBusy b).acts = s.acts := rfl
@[simp] theorem State.withBusy_port (b : List HookKey) : (s.withBusy b).port = s.port := rfl
@[simp] theorem State.withBusy_answers (b : List HookKey) : (s.withBusy b).answers = s.answers := rfl
@[simp] theorem State.withBusy_calls (b : List HookKey) : (s.withBusy b).calls = s.calls := rfl
@[simp] theorem State.withBusy_ret (b : List HookKey) : (s.withBusy b).ret = s.ret := rfl
@[simp] theorem State.withBusy_ctx (b : List HookKey) : (s.withBusy b).ctx = s.ctx := rfl
@[simp] theorem State.withBusy_busy (b : List HookKey) : (s.withBusy b).busy = b := rfl
@[simp] theorem State.withBusy_bound (b : List HookKey) : (s.withBusy b).bound = s.bound := rfl

@[simp] theorem State.called_regs (c : EnvCall) : (s.called c).regs = s.regs := rfl
@[simp] theorem State.called_sf (c : EnvCall) : (s.called c).sf = s.sf := rfl
@[simp] theorem State.called_cyc (c : EnvCall) : (s.called c).cyc = s.cyc := rfl
@[simp] theorem State.called_lta (c : EnvCall) : (s.called c).lta = s.lta := rfl
@[simp] theorem State.called_frec (c : EnvCall) : (s.called c).frec = s.frec := rfl
@[simp] theorem State.called_nested (c : EnvCall) : (s.called c).nested = s.nested := rfl
@[simp] theorem State.called_iter (c : EnvCall) : (s.called c).iter = s.iter := rfl
@[simp] theorem State.called_hooks (c : EnvCall) : (s.called c).hooks = s.hooks := rfl
@[simp] theorem State.called_mem (c : EnvCall) : (s.called c).mem = s.mem := rfl
@[simp] theorem State.called_files (c : EnvCall) : (s.called c).files = s.files := rfl
@[simp] theorem State.called_cfg (c : EnvCall) : (s.called c).cfg = s.cfg := rfl
@[simp] theorem State.called_acts (c : EnvCall) : (s.called c).acts = s.acts := rfl
@[simp] theorem State.called_port (c : EnvCall) : (s.called c).port = s.port := rfl
@[simp] theorem State.called_answers (c : EnvCall) : (s.called c).answers = dropAnswer c s.answers := rfl
@[simp] theorem State.called_calls (c : EnvCall) : (s.called c).calls = c :: s.calls := rfl
@[simp] theorem State.called_ret (c : EnvCall) : (s.called c).ret = s.ret := rfl
@[simp] theorem State.called_ctx (c : EnvCall) : (s.called c).ctx = s.ctx := rfl
@[simp] theorem State.called_busy (c : EnvCall) : (s.called c).busy = s.busy := rfl
@[simp] theorem State.called_bound (c : EnvCall) : (s.called c).bound = s.bound := rfl

@[simp] theorem State.setByte_regs (a : Word) (b : Byte) : (s.setByte a b).regs = s.regs := rfl
@[simp] theorem State.setByte_sf (a : Word) (b : Byte) : (s.setByte a b).sf = s.sf := rfl
@[simp] theorem State.setByte_cyc (a : Word) (b : Byte) : (s.setByte a b).cyc = s.cyc := rfl
@[simp] theorem State.setByte_lta (a : Word) (b : Byte) : (s.setByte a b).lta = s.lta := rfl
@[simp] theorem State.setByte_frec (a : Word) (b : Byte) : (s.setByte a b).frec = s.frec := rfl
@[simp] theorem State.setByte_nested (a : Word) (b : Byte) : (s.setByte a b).nested = s.nested := rfl
@[simp] theorem State.setByte_iter (a : Word) (b : Byte) : (s.setByte a b).iter = s.iter := rfl
@[simp] theorem State.setByte_hooks (a : Word) (b : Byte) : (s.setByte a b).hooks = s.hooks := rfl
@[simp] theorem State.setByte_mem (a : Word) (b : Byte) : (s.setByte a b).mem = s.mem.write a.toNat b := rfl
@[simp] theorem State.setByte_files (a : Word) (b : Byte) : (s.setByte a b).files = s.files := rfl
@[simp] theorem State.setByte_cfg (a : Word) (b : Byte) : (s.setByte a b).cfg = s.cfg := rfl
@[simp] theorem State.setByte_acts (a : Word) (b : Byte) : (s.setByte a b).acts = s.acts := rfl
@[simp] theorem State.setByte_port (a : Word) (b : Byte) : (s.setByte a b).port = s.port := rfl
@[simp] theorem State.setByte_answers (a : Word) (b : Byte) : (s.setByte a b).answers = s.answers := rfl
@[simp] theorem State.setByte_calls (a : Word) (b : Byte) : (s.setByte a b).calls = s.calls := rfl
@[simp] theorem State.setByte_ret (a : Word) (b : Byte) : (s.setByte a b).ret = s.ret := rfl
@[simp] theorem State.setByte_ctx (a : Word) (b : Byte) : (s.setByte a b).ctx = s.ctx := rfl
@[simp] theorem State.setByte_busy (a : Word) (b : Byte) : (s.setByte a b).busy = s.busy := rfl
@[simp] theorem State.setByte_bound (a : Word) (b : Byte) : (s.setByte a b).bound = s.bound := rfl

@[simp] theorem State.setTop_regs (p : Phase) : (s.setTop p).regs = s.regs := rfl
@[simp] theorem State.setTop_sf (p : Phase) : (s.setTop p).sf = s.sf := rfl
@[simp] theorem State.setTop_cyc (p : Phase) : (s.setTop p).cyc = s.cyc := rfl
@[simp] theorem State.setTop_lta (p : Phase) : (s.setTop p).lta = s.lta := rfl
@[simp] theorem State.setTop_frec (p : Phase) : (s.setTop p).frec = s.frec := rfl
@[simp] theorem State.setTop_nested (p : Phase) : (s.setTop p).nested = s.nested := rfl
@[simp] theorem State.setTop_iter (p : Phase) : (s.setTop p).iter = s.iter := rfl
@[simp] theorem State.setTop_hooks (p : Phase) : (s.setTop p).hooks = s.hooks := rfl
@[simp] theorem State.setTop_mem (p : Phase) : (s.setTop p).mem = s.mem := rfl
@[simp] theorem State.setTop_files (p : Phase) : (s.setTop p).files = s.files := rfl
@[simp] theorem State.setTop_cfg (p : Phase) : (s.setTop p).cfg = s.cfg := rfl
@[simp] theorem State.setTop_acts (p : Phase) : (s.setTop p).acts = p :: s.acts.tail := rfl
@[simp] theorem State.setTop_port (p : Phase) : (s.setTop p).port = s.port := rfl
@[simp] theorem State.setTop_answers (p : Phase) : (s.setTop p).answers = s.answers := rfl
@[simp] theorem State.setTop_calls (p : Phase) : (s.setTop p).calls = s.calls := rfl
@[simp] theorem State.setTop_ret (p : Phase) : (s.setTop p).ret = s.ret := rfl
@[simp] theorem State.setTop_ctx (p : Phase) : (s.setTop p).ctx = s.ctx := rfl
@[simp] theorem State.setTop_busy (p : Phase) : (s.setTop p).busy = s.busy := rfl
@[simp] theorem State.setTop_bound (p : Phase) : (s.setTop p).bound = s.bound := rfl

@[simp] theorem State.push_regs (p : Phase) : (s.push p).regs = s.regs := rfl
@[simp] theorem State.push_sf (p : Phase) : (s.push p).sf = s.sf := rfl
@[simp] theorem State.push_cyc (p : Phase) : (s.push p).cyc = s.cyc := rfl
@[simp] theorem State.push_lta (p : Phase) : (s.push p).lta = s.lta := rfl
@[simp] theorem State.push_frec (p : Phase) : (s.push p).frec = s.frec := rfl
@[simp] theorem State.push_nested (p : Phase) : (s.push p).nested = s.nested := rfl
@[simp] theorem State.push_iter (p : Phase) : (s.push p).iter = s.iter := rfl
@[simp] theorem State.push_hooks (p : Phase) : (s.push p).hooks = s.hooks := rfl
@[simp] theorem State.push_mem (p : Phase) : (s.push p).mem = s.mem := rfl
@[simp] theorem State.push_files (p : Phase) : (s.push p).files = s.files := rfl
@[simp] theorem State.push_cfg (p : Phase) : (s.push p).cfg = s.cfg := rfl
@[simp] theorem State.push_acts (p : Phase) : (s.push p).acts = p :: s.acts := rfl
@[simp] theorem State.push_port (p : Phase) : (s.push p).port = s.port := rfl
@[simp] theorem State.push_answers (p : Phase) : (s.push p).answers = s.answers := rfl
@[simp] theorem State.push_calls (p : Phase) : (s.push p).calls = s.calls := rfl
@[simp] theorem State.push_ret (p : Phase) : (s.push p).ret = s.ret := rfl
@[simp] theorem State.push_ctx (p : Phase) : (s.push p).ctx = s.ctx := rfl
@[simp] theorem State.push_busy (p : Phase) : (s.push p).busy = s.busy := rfl
@[simp] theorem State.push_bound (p : Phase) : (s.push p).bound = s.bound := rfl

@[simp] theorem State.pop_regs : s.pop.regs = s.regs := rfl
@[simp] theorem State.pop_sf : s.pop.sf = s.sf := rfl
@[simp] theorem State.pop_cyc : s.pop.cyc = s.cyc := rfl
@[simp] theorem State.pop_lta : s.pop.lta = s.lta := rfl
@[simp] theorem State.pop_frec : s.pop.frec = s.frec := rfl
@[simp] theorem State.pop_nested : s.pop.nested = s.nested := rfl
@[simp] theorem State.pop_iter : s.pop.iter = s.iter := rfl
@[simp] theorem State.pop_hooks : s.pop.hooks = s.hooks := rfl
@[simp] theorem State.pop_mem : s.pop.mem = s.mem := rfl
@[simp] theorem State.pop_files : s.pop.files = s.files := rfl
@[simp] theorem State.pop_cfg : s.pop.cfg = s.cfg := rfl
@[simp] theorem State.pop_acts : s.pop.acts = s.acts.tail := rfl
@[simp] theorem State.pop_port : s.pop.port = s.port := rfl
@[simp] theorem State.pop_answers : s.pop.answers = s.answers := rfl
@[simp] theorem State.pop_calls : s.pop.calls = s.calls := rfl
@[simp] theorem State.pop_ret : s.pop.ret = s.ret := rfl
@[simp] theorem State.pop_ctx : s.pop.ctx = s.ctx := rfl
@[simp] theorem State.pop_busy : s.pop.busy = s.busy := rfl
@[simp] theorem State.pop_bound : s.pop.bound = s.bound := rfl

@[simp] theorem State.putFile_regs (f : FileId) (bytes : List Byte) : (s.putFile f bytes).regs = s.regs := rfl
@[simp] theorem State.putFile_sf (f : FileId) (bytes : List Byte) : (s.putFile f bytes).sf = s.sf := rfl
@[simp] theorem State.putFile_cyc (f : FileId) (bytes : List Byte) : (s.putFile f bytes).cyc = s.cyc := rfl
@[simp] theorem State.putFile_lta (f : FileId) (bytes : List Byte) : (s.putFile f bytes).lta = s.lta := rfl
@[simp] theorem State.putFile_frec (f : FileId) (bytes : List Byte) : (s.putFile f bytes).frec = s.frec := rfl
@[simp] theorem State.putFile_nested (f : FileId) (bytes : List Byte) : (s.putFile f bytes).nested = s.nested := rfl
@[simp] theorem State.putFile_iter (f : FileId) (bytes : List Byte) : (s.putFile f bytes).iter = s.iter := rfl
@[simp] theorem State.putFile_hooks (f : FileId) (bytes : List Byte) : (s.putFile f bytes).hooks = s.hooks := rfl
@[simp] theorem State.putFile_mem (f : FileId) (bytes : List Byte) : (s.putFile f bytes).mem = s.mem := rfl
@[simp] theorem State.putFile_files (f : FileId) (bytes : List Byte) :
    (s.putFile f bytes).files = (f, bytes) :: s.files.filter fun e => e.1 ≠ f :=
  rfl
@[simp] theorem State.putFile_cfg (f : FileId) (bytes : List Byte) : (s.putFile f bytes).cfg = s.cfg := rfl
@[simp] theorem State.putFile_acts (f : FileId) (bytes : List Byte) : (s.putFile f bytes).acts = s.acts := rfl
@[simp] theorem State.putFile_port (f : FileId) (bytes : List Byte) : (s.putFile f bytes).port = s.port := rfl
@[simp] theorem State.putFile_answers (f : FileId) (bytes : List Byte) :
    (s.putFile f bytes).answers = s.answers :=
  rfl
@[simp] theorem State.putFile_calls (f : FileId) (bytes : List Byte) : (s.putFile f bytes).calls = s.calls := rfl
@[simp] theorem State.putFile_ret (f : FileId) (bytes : List Byte) : (s.putFile f bytes).ret = s.ret := rfl
@[simp] theorem State.putFile_ctx (f : FileId) (bytes : List Byte) : (s.putFile f bytes).ctx = s.ctx := rfl
@[simp] theorem State.putFile_busy (f : FileId) (bytes : List Byte) : (s.putFile f bytes).busy = s.busy := rfl
@[simp] theorem State.putFile_bound (f : FileId) (bytes : List Byte) : (s.putFile f bytes).bound = s.bound := rfl

@[simp] theorem State.retry_regs : s.retry.regs = s.regs := rfl
@[simp] theorem State.retry_sf : s.retry.sf = s.sf := rfl
@[simp] theorem State.retry_cyc : s.retry.cyc = s.cyc := rfl
@[simp] theorem State.retry_lta : s.retry.lta = s.lta := rfl
@[simp] theorem State.retry_frec : s.retry.frec = s.frec := rfl
@[simp] theorem State.retry_nested : s.retry.nested = s.nested := rfl
@[simp] theorem State.retry_iter : s.retry.iter = s.iter := rfl
@[simp] theorem State.retry_hooks : s.retry.hooks = s.hooks := rfl
@[simp] theorem State.retry_mem : s.retry.mem = s.mem := rfl
@[simp] theorem State.retry_files : s.retry.files = s.files := rfl
@[simp] theorem State.retry_cfg : s.retry.cfg = s.cfg := rfl
@[simp] theorem State.retry_acts : s.retry.acts = s.acts := rfl
@[simp] theorem State.retry_port : s.retry.port = s.port := rfl
@[simp] theorem State.retry_answers : s.retry.answers = s.answers := rfl
@[simp] theorem State.retry_calls : s.retry.calls = s.calls := rfl
@[simp] theorem State.retry_ret : s.retry.ret = s.ret := rfl
@[simp] theorem State.retry_ctx : s.retry.ctx = s.ctx := rfl
@[simp] theorem State.retry_busy : s.retry.busy = s.busy := rfl
@[simp] theorem State.retry_bound : s.retry.bound = 2 * s.bound + 1 := rfl

@[simp] theorem State.recorded_regs (f : MemFault) : (s.recorded f).regs = s.regs := rfl
@[simp] theorem State.recorded_sf (f : MemFault) : (s.recorded f).sf = s.sf := rfl
@[simp] theorem State.recorded_cyc (f : MemFault) : (s.recorded f).cyc = s.cyc := rfl
@[simp] theorem State.recorded_lta (f : MemFault) : (s.recorded f).lta = s.lta := rfl
@[simp] theorem State.recorded_frec (f : MemFault) :
    (s.recorded f).frec = some { addr := f.addr, size := f.size, dir := f.dir } :=
  rfl
@[simp] theorem State.recorded_nested (f : MemFault) : (s.recorded f).nested = s.nested := rfl
@[simp] theorem State.recorded_iter (f : MemFault) : (s.recorded f).iter = s.iter := rfl
@[simp] theorem State.recorded_hooks (f : MemFault) : (s.recorded f).hooks = s.hooks := rfl
@[simp] theorem State.recorded_mem (f : MemFault) : (s.recorded f).mem = s.mem := rfl
@[simp] theorem State.recorded_files (f : MemFault) : (s.recorded f).files = s.files := rfl
@[simp] theorem State.recorded_cfg (f : MemFault) : (s.recorded f).cfg = s.cfg := rfl
@[simp] theorem State.recorded_acts (f : MemFault) : (s.recorded f).acts = s.acts := rfl
@[simp] theorem State.recorded_port (f : MemFault) : (s.recorded f).port = s.port := rfl
@[simp] theorem State.recorded_answers (f : MemFault) : (s.recorded f).answers = s.answers := rfl
@[simp] theorem State.recorded_calls (f : MemFault) : (s.recorded f).calls = s.calls := rfl
@[simp] theorem State.recorded_ret (f : MemFault) : (s.recorded f).ret = s.ret := rfl
@[simp] theorem State.recorded_ctx (f : MemFault) : (s.recorded f).ctx = s.ctx := rfl
@[simp] theorem State.recorded_busy (f : MemFault) : (s.recorded f).busy = s.busy := rfl
@[simp] theorem State.recorded_bound (f : MemFault) : (s.recorded f).bound = s.bound := rfl

@[simp] theorem State.setHalf_regs (a : Word) (h : Half) : (s.setHalf a h).regs = s.regs := rfl
@[simp] theorem State.setHalf_sf (a : Word) (h : Half) : (s.setHalf a h).sf = s.sf := rfl
@[simp] theorem State.setHalf_cyc (a : Word) (h : Half) : (s.setHalf a h).cyc = s.cyc := rfl
@[simp] theorem State.setHalf_lta (a : Word) (h : Half) : (s.setHalf a h).lta = s.lta := rfl
@[simp] theorem State.setHalf_frec (a : Word) (h : Half) : (s.setHalf a h).frec = s.frec := rfl
@[simp] theorem State.setHalf_nested (a : Word) (h : Half) : (s.setHalf a h).nested = s.nested := rfl
@[simp] theorem State.setHalf_iter (a : Word) (h : Half) : (s.setHalf a h).iter = s.iter := rfl
@[simp] theorem State.setHalf_hooks (a : Word) (h : Half) : (s.setHalf a h).hooks = s.hooks := rfl
@[simp] theorem State.setHalf_files (a : Word) (h : Half) : (s.setHalf a h).files = s.files := rfl
@[simp] theorem State.setHalf_cfg (a : Word) (h : Half) : (s.setHalf a h).cfg = s.cfg := rfl
@[simp] theorem State.setHalf_acts (a : Word) (h : Half) : (s.setHalf a h).acts = s.acts := rfl
@[simp] theorem State.setHalf_port (a : Word) (h : Half) : (s.setHalf a h).port = s.port := rfl
@[simp] theorem State.setHalf_answers (a : Word) (h : Half) : (s.setHalf a h).answers = s.answers := rfl
@[simp] theorem State.setHalf_calls (a : Word) (h : Half) : (s.setHalf a h).calls = s.calls := rfl
@[simp] theorem State.setHalf_ret (a : Word) (h : Half) : (s.setHalf a h).ret = s.ret := rfl
@[simp] theorem State.setHalf_ctx (a : Word) (h : Half) : (s.setHalf a h).ctx = s.ctx := rfl
@[simp] theorem State.setHalf_busy (a : Word) (h : Half) : (s.setHalf a h).busy = s.busy := rfl
@[simp] theorem State.setHalf_bound (a : Word) (h : Half) : (s.setHalf a h).bound = s.bound := rfl

@[simp] theorem State.setWord_regs (a : Word) (w : Word) : (s.setWord a w).regs = s.regs := rfl
@[simp] theorem State.setWord_sf (a : Word) (w : Word) : (s.setWord a w).sf = s.sf := rfl
@[simp] theorem State.setWord_cyc (a : Word) (w : Word) : (s.setWord a w).cyc = s.cyc := rfl
@[simp] theorem State.setWord_lta (a : Word) (w : Word) : (s.setWord a w).lta = s.lta := rfl
@[simp] theorem State.setWord_frec (a : Word) (w : Word) : (s.setWord a w).frec = s.frec := rfl
@[simp] theorem State.setWord_nested (a : Word) (w : Word) : (s.setWord a w).nested = s.nested := rfl
@[simp] theorem State.setWord_iter (a : Word) (w : Word) : (s.setWord a w).iter = s.iter := rfl
@[simp] theorem State.setWord_hooks (a : Word) (w : Word) : (s.setWord a w).hooks = s.hooks := rfl
@[simp] theorem State.setWord_files (a : Word) (w : Word) : (s.setWord a w).files = s.files := rfl
@[simp] theorem State.setWord_cfg (a : Word) (w : Word) : (s.setWord a w).cfg = s.cfg := rfl
@[simp] theorem State.setWord_acts (a : Word) (w : Word) : (s.setWord a w).acts = s.acts := rfl
@[simp] theorem State.setWord_port (a : Word) (w : Word) : (s.setWord a w).port = s.port := rfl
@[simp] theorem State.setWord_answers (a : Word) (w : Word) : (s.setWord a w).answers = s.answers := rfl
@[simp] theorem State.setWord_calls (a : Word) (w : Word) : (s.setWord a w).calls = s.calls := rfl
@[simp] theorem State.setWord_ret (a : Word) (w : Word) : (s.setWord a w).ret = s.ret := rfl
@[simp] theorem State.setWord_ctx (a : Word) (w : Word) : (s.setWord a w).ctx = s.ctx := rfl
@[simp] theorem State.setWord_busy (a : Word) (w : Word) : (s.setWord a w).busy = s.busy := rfl
@[simp] theorem State.setWord_bound (a : Word) (w : Word) : (s.setWord a w).bound = s.bound := rfl

@[simp] theorem State.machine_regs : s.machine.regs = s.regs := rfl
@[simp] theorem State.machine_sf : s.machine.sf = s.sf := rfl
@[simp] theorem State.machine_cyc : s.machine.cyc = s.cyc := rfl
@[simp] theorem State.machine_lta : s.machine.lta = s.lta := rfl
@[simp] theorem State.machine_frec : s.machine.frec = s.frec := rfl
@[simp] theorem State.machine_nested : s.machine.nested = s.nested := rfl
@[simp] theorem State.machine_iter : s.machine.iter = s.iter := rfl
@[simp] theorem State.machine_hooks : s.machine.hooks = s.hooks := rfl
@[simp] theorem State.machine_mem : s.machine.mem = s.mem := rfl
@[simp] theorem State.machine_files : s.machine.files = s.files := rfl
@[simp] theorem State.machine_cfg : s.machine.cfg = s.cfg := rfl
@[simp] theorem State.machine_acts : s.machine.acts = s.acts := rfl
@[simp] theorem State.machine_port : s.machine.port = s.port := rfl
@[simp] theorem State.machine_answers : s.machine.answers = [] := rfl
@[simp] theorem State.machine_calls : s.machine.calls = [] := rfl
@[simp] theorem State.machine_ret : s.machine.ret = s.ret := rfl
@[simp] theorem State.machine_ctx : s.machine.ctx = s.ctx := rfl
@[simp] theorem State.machine_busy : s.machine.busy = s.busy := rfl
@[simp] theorem State.machine_bound : s.machine.bound = s.bound := rfl

@[simp] theorem State.calledAll_regs (cs : List EnvCall) : (s.calledAll cs).regs = s.regs := by
  induction cs generalizing s with
  | nil => rfl
  | cons c cs ih => exact ih (s.called c)

@[simp] theorem State.calledAll_sf (cs : List EnvCall) : (s.calledAll cs).sf = s.sf := by
  induction cs generalizing s with
  | nil => rfl
  | cons c cs ih => exact ih (s.called c)

@[simp] theorem State.calledAll_cyc (cs : List EnvCall) : (s.calledAll cs).cyc = s.cyc := by
  induction cs generalizing s with
  | nil => rfl
  | cons c cs ih => exact ih (s.called c)

@[simp] theorem State.calledAll_lta (cs : List EnvCall) : (s.calledAll cs).lta = s.lta := by
  induction cs generalizing s with
  | nil => rfl
  | cons c cs ih => exact ih (s.called c)

@[simp] theorem State.calledAll_frec (cs : List EnvCall) : (s.calledAll cs).frec = s.frec := by
  induction cs generalizing s with
  | nil => rfl
  | cons c cs ih => exact ih (s.called c)

@[simp] theorem State.calledAll_nested (cs : List EnvCall) : (s.calledAll cs).nested = s.nested := by
  induction cs generalizing s with
  | nil => rfl
  | cons c cs ih => exact ih (s.called c)

@[simp] theorem State.calledAll_iter (cs : List EnvCall) : (s.calledAll cs).iter = s.iter := by
  induction cs generalizing s with
  | nil => rfl
  | cons c cs ih => exact ih (s.called c)

@[simp] theorem State.calledAll_hooks (cs : List EnvCall) : (s.calledAll cs).hooks = s.hooks := by
  induction cs generalizing s with
  | nil => rfl
  | cons c cs ih => exact ih (s.called c)

@[simp] theorem State.calledAll_mem (cs : List EnvCall) : (s.calledAll cs).mem = s.mem := by
  induction cs generalizing s with
  | nil => rfl
  | cons c cs ih => exact ih (s.called c)

@[simp] theorem State.calledAll_files (cs : List EnvCall) : (s.calledAll cs).files = s.files := by
  induction cs generalizing s with
  | nil => rfl
  | cons c cs ih => exact ih (s.called c)

@[simp] theorem State.calledAll_cfg (cs : List EnvCall) : (s.calledAll cs).cfg = s.cfg := by
  induction cs generalizing s with
  | nil => rfl
  | cons c cs ih => exact ih (s.called c)

@[simp] theorem State.calledAll_acts (cs : List EnvCall) : (s.calledAll cs).acts = s.acts := by
  induction cs generalizing s with
  | nil => rfl
  | cons c cs ih => exact ih (s.called c)

@[simp] theorem State.calledAll_port (cs : List EnvCall) : (s.calledAll cs).port = s.port := by
  induction cs generalizing s with
  | nil => rfl
  | cons c cs ih => exact ih (s.called c)

@[simp] theorem State.calledAll_ret (cs : List EnvCall) : (s.calledAll cs).ret = s.ret := by
  induction cs generalizing s with
  | nil => rfl
  | cons c cs ih => exact ih (s.called c)

@[simp] theorem State.calledAll_ctx (cs : List EnvCall) : (s.calledAll cs).ctx = s.ctx := by
  induction cs generalizing s with
  | nil => rfl
  | cons c cs ih => exact ih (s.called c)

@[simp] theorem State.calledAll_busy (cs : List EnvCall) : (s.calledAll cs).busy = s.busy := by
  induction cs generalizing s with
  | nil => rfl
  | cons c cs ih => exact ih (s.called c)

@[simp] theorem State.calledAll_bound (cs : List EnvCall) : (s.calledAll cs).bound = s.bound := by
  induction cs generalizing s with
  | nil => rfl
  | cons c cs ih => exact ih (s.called c)

/-- The calls are noted, newest first. -/
@[simp] theorem State.calledAll_calls (cs : List EnvCall) : (s.calledAll cs).calls = cs.reverse ++ s.calls := by
  induction cs generalizing s with
  | nil => rfl
  | cons c cs ih => simp [State.calledAll] at ih ⊢; rw [ih]; simp

@[simp] theorem State.calledAll_nil : s.calledAll [] = s := rfl

@[simp] theorem State.calledAll_cons (c : EnvCall) (cs : List EnvCall) :
    s.calledAll (c :: cs) = (s.called c).calledAll cs := rfl

theorem State.calledAll_append (cs ds : List EnvCall) :
    s.calledAll (cs ++ ds) = (s.calledAll cs).calledAll ds := by
  simp [State.calledAll, List.foldl_append]

@[simp] theorem State.called_machine (c : EnvCall) : (s.called c).machine = s.machine := rfl

@[simp] theorem State.calledAll_machine (cs : List EnvCall) : (s.calledAll cs).machine = s.machine := by
  induction cs generalizing s with
  | nil => rfl
  | cons c cs ih => exact ih (s.called c)

@[simp] theorem State.machine_machine : s.machine.machine = s.machine := rfl

@[simp] theorem State.machine_byte (a : Word) : s.machine.byte a = s.byte a := rfl

@[simp] theorem State.machine_half (a : Word) : s.machine.half a = s.half a := rfl

@[simp] theorem State.machine_word (a : Word) : s.machine.word a = s.word a := rfl

/-- Calls made one after the other differ from none in the calls noted and the answers left alone. -/
theorem State.calledAll_eq (cs : List EnvCall) :
    s.calledAll cs = { s with calls := (s.calledAll cs).calls, answers := (s.calledAll cs).answers } := by
  induction cs generalizing s with
  | nil => rfl
  | cons c cs ih => exact ih (s.called c)

/-- The answers left depend on the answers alone. -/
theorem State.calledAll_answers_congr {s t : State} (h : t.answers = s.answers) (cs : List EnvCall) :
    (t.calledAll cs).answers = (s.calledAll cs).answers := by
  induction cs generalizing s t with
  | nil => exact h
  | cons c cs ih => exact ih (congrArg (dropAnswer c) h)

/-- The calls of a hook list depend on the hooks alone. -/
theorem State.hookCalls_congr {s t : State} (h : t.hooks = s.hooks) (key : HookKey) (arg : HookArg) :
    t.hookCalls key arg = s.hookCalls key arg := by
  unfold State.hookCalls State.hookList
  rw [h]

/-- Two states are equal when every field is. -/
theorem State.ext_fields {s t : State} (h1 : s.regs = t.regs) (h2 : s.sf = t.sf) (h3 : s.cyc = t.cyc) (h4 : s.lta = t.lta)
    (h5 : s.frec = t.frec) (h6 : s.nested = t.nested) (h7 : s.iter = t.iter) (h8 : s.hooks = t.hooks)
    (h9 : s.mem = t.mem) (h10 : s.files = t.files) (h11 : s.cfg = t.cfg) (h12 : s.acts = t.acts)
    (h13 : s.port = t.port) (h14 : s.answers = t.answers) (h15 : s.calls = t.calls) (h16 : s.ret = t.ret)
    (h17 : s.ctx = t.ctx) (h18 : s.busy = t.busy) (h19 : s.bound = t.bound) : s = t := by
  cases s; cases t; simp_all

end Sys2Proof.Machine
end

