-- ==== Sys2Proof/Laws/Memory.lean ====
section
/-! SUPPORT. The laws of memory: every operation keeps the canonical form, a read after a write to the same place gives the
value written, and a write leaves every other place alone. -/

namespace Sys2Proof.Machine

theorem Memory.wfFrom_cons {lo k : Nat} {v : Byte} {t : Memory} :
    Memory.wfFrom lo ((k, v) :: t) = true ↔
      lo ≤ k ∧ k < 4294967296 ∧ v ≠ Memory.blank ∧ Memory.wfFrom (k + 1) t = true := by
  simp [Memory.wfFrom, and_assoc]

theorem Memory.wfFrom_weaken {lo lo' : Nat} (h : lo' ≤ lo) {m : Memory} (hw : Memory.wfFrom lo m = true) :
    Memory.wfFrom lo' m = true := by
  cases m with
  | nil => rfl
  | cons e t =>
    rw [Memory.wfFrom_cons] at hw ⊢
    exact ⟨h.trans hw.1, hw.2⟩

theorem Memory.write_wfFrom (m : Memory) (a : Nat) (b : Byte) (ha : a < 4294967296) :
    ∀ lo, lo ≤ a → Memory.wfFrom lo m = true → Memory.wfFrom lo (Memory.write m a b) = true := by
  induction m with
  | nil =>
    intro lo hlo _
    unfold Memory.write
    split
    · rfl
    · rename_i hb
      exact Memory.wfFrom_cons.2 ⟨hlo, ha, hb, rfl⟩
  | cons e t ih =>
    obtain ⟨k, v⟩ := e
    intro lo hlo hw
    have hc := Memory.wfFrom_cons.1 hw
    unfold Memory.write
    split
    · split
      · exact hw
      · rename_i hak hb
        exact Memory.wfFrom_cons.2 ⟨hlo, ha, hb, Memory.wfFrom_cons.2 ⟨hak, hc.2⟩⟩
    · split
      · split
        · exact Memory.wfFrom_weaken (by omega) hc.2.2.2
        · rename_i hak hb
          exact Memory.wfFrom_cons.2 ⟨hlo, ha, hb, by rw [hak]; exact hc.2.2.2⟩
      · exact Memory.wfFrom_cons.2 ⟨hc.1, hc.2.1, hc.2.2.1, ih (k + 1) (by omega) hc.2.2.2⟩

/-- Writing a byte keeps the canonical form. -/
theorem Memory.write_wf {m : Memory} (h : m.wf = true) {a : Nat} (ha : a < 4294967296) (b : Byte) :
    (m.write a b).wf = true :=
  Memory.write_wfFrom m a b ha 0 (Nat.zero_le a) h

theorem Memory.read_below (m : Memory) : ∀ lo a, a < lo → Memory.wfFrom lo m = true → m.read a = Memory.blank := by
  induction m with
  | nil => intro _ _ _ _; rfl
  | cons e t ih =>
    obtain ⟨k, v⟩ := e
    intro lo a ha hw
    have hc := Memory.wfFrom_cons.1 hw
    unfold Memory.read
    rw [if_neg (by omega)]
    exact ih (k + 1) a (by omega) hc.2.2.2

theorem Memory.read_write_same_from (m : Memory) (a : Nat) (b : Byte) :
    ∀ lo, Memory.wfFrom lo m = true → (m.write a b).read a = b := by
  induction m with
  | nil =>
    intro lo _
    unfold Memory.write
    split <;> simp_all [Memory.read]
  | cons e t ih =>
    obtain ⟨k, v⟩ := e
    intro lo hw
    have hc := Memory.wfFrom_cons.1 hw
    unfold Memory.write
    split
    · rename_i hak
      split
      · rename_i hb
        rw [hb]
        exact Memory.read_below _ k a hak (Memory.wfFrom_cons.2 ⟨le_refl k, hc.2⟩)
      · simp [Memory.read]
    · split
      · rename_i hak
        split
        · rename_i hb
          rw [hb]
          exact Memory.read_below _ (k + 1) a (by omega) hc.2.2.2
        · simp [Memory.read]
      · rename_i hak hne
        unfold Memory.read
        rw [if_neg (fun h => hne h.symm)]
        exact ih (k + 1) hc.2.2.2

/-- The byte written is the byte read. -/
theorem Memory.read_write_same {m : Memory} (h : m.wf = true) (a : Nat) (b : Byte) : (m.write a b).read a = b :=
  Memory.read_write_same_from m a b 0 h

/-- A write leaves every other address alone. -/
theorem Memory.read_write_other (m : Memory) {a c : Nat} (hne : c ≠ a) (b : Byte) : (m.write a b).read c = m.read c := by
  induction m with
  | nil =>
    unfold Memory.write
    split
    · rfl
    · simp [Memory.read, hne.symm]
  | cons e t ih =>
    obtain ⟨k, v⟩ := e
    unfold Memory.write
    split
    · split
      · rfl
      · simp [Memory.read, hne.symm]
    · split
      · rename_i hak
        subst hak
        split <;> simp [Memory.read, hne.symm]
      · simp [Memory.read, ih]

/-! Bytes of the machine -/

theorem State.setByte_wf {s : State} (h : s.mem.wf = true) (a : Word) (b : Byte) : (s.setByte a b).mem.wf = true :=
  Memory.write_wf h a.isLt b

theorem State.setHalf_wf {s : State} (h : s.mem.wf = true) (a : Word) (v : Half) : (s.setHalf a v).mem.wf = true :=
  State.setByte_wf (State.setByte_wf h _ _) _ _

theorem State.setWord_wf {s : State} (h : s.mem.wf = true) (a : Word) (v : Word) : (s.setWord a v).mem.wf = true :=
  State.setHalf_wf (State.setHalf_wf h _ _) _ _

theorem State.byte_setByte_same {s : State} (h : s.mem.wf = true) (a : Word) (b : Byte) : (s.setByte a b).byte a = b :=
  Memory.read_write_same h _ _

theorem State.byte_setByte_other (s : State) {a c : Word} (hne : c ≠ a) (b : Byte) : (s.setByte a b).byte c = s.byte c :=
  Memory.read_write_other _ (fun h => hne (BitVec.eq_of_toNat_eq h)) _

theorem State.byte_setHalf_other (s : State) {a c : Word} (h0 : c ≠ a) (h1 : c ≠ a + 1) (v : Half) :
    (s.setHalf a v).byte c = s.byte c := by
  unfold State.setHalf
  rw [State.byte_setByte_other _ h1, State.byte_setByte_other _ h0]

theorem State.byte_setHalf_hi {s : State} (h : s.mem.wf = true) (a : Word) (v : Half) :
    (s.setHalf a v).byte a = v.extractLsb' 8 8 := by
  unfold State.setHalf
  rw [State.byte_setByte_other _ (by simp), State.byte_setByte_same h]

theorem State.byte_setHalf_lo {s : State} (h : s.mem.wf = true) (a : Word) (v : Half) :
    (s.setHalf a v).byte (a + 1) = v.extractLsb' 0 8 := by
  unfold State.setHalf
  rw [State.byte_setByte_same (State.setByte_wf h _ _)]

/-- A 16-bit value is its two bytes. -/
theorem halfOfBytes_extract (v : Half) : halfOfBytes (v.extractLsb' 8 8) (v.extractLsb' 0 8) = v := by
  unfold halfOfBytes
  rw [BitVec.extractLsb'_append_extractLsb'_eq_extractLsb' (by rfl)]
  simp

/-- A 32-bit value is its two halves. -/
theorem word_halves (w : Word) : w.extractLsb' 16 16 ++ w.extractLsb' 0 16 = w := by
  rw [BitVec.extractLsb'_append_extractLsb'_eq_extractLsb' (by rfl)]
  simp

/-- The 16-bit value stored is the value read. -/
theorem State.half_setHalf_same {s : State} (h : s.mem.wf = true) (a : Word) (v : Half) : (s.setHalf a v).half a = v := by
  unfold State.half
  rw [State.byte_setHalf_hi h, State.byte_setHalf_lo h, halfOfBytes_extract]

/-- A 16-bit read depends on its two bytes alone. -/
theorem State.half_congr {s t : State} {a : Word} (h0 : t.byte a = s.byte a) (h1 : t.byte (a + 1) = s.byte (a + 1)) :
    t.half a = s.half a := by
  unfold State.half
  rw [h0, h1]

/-- A 32-bit read depends on its two halves alone. -/
theorem State.word_congr {s t : State} {a : Word} (h0 : t.half a = s.half a) (h1 : t.half (a + 2) = s.half (a + 2)) :
    t.word a = s.word a := by
  unfold State.word
  rw [h0, h1]

theorem State.half_setHalf_other (s : State) {a c : Word} (h0 : c ≠ a) (h1 : c ≠ a + 1) (h2 : c + 1 ≠ a)
    (h3 : c + 1 ≠ a + 1) (v : Half) : (s.setHalf a v).half c = s.half c :=
  State.half_congr (State.byte_setHalf_other _ h0 h1 _) (State.byte_setHalf_other _ h2 h3 _)

/-- The 32-bit value stored is the value read. -/
theorem State.word_setWord_same {s : State} (h : s.mem.wf = true) (a : Word) (v : Word) : (s.setWord a v).word a = v := by
  unfold State.word State.setWord
  rw [State.half_setHalf_same (State.setHalf_wf h _ _),
    State.half_setHalf_other _ (by bv_omega) (by bv_omega) (by bv_omega) (by bv_omega), State.half_setHalf_same h,
    word_halves]

theorem State.byte_setWord_other (s : State) {a c : Word} (h : Outside c a 4) (v : Word) :
    (s.setWord a v).byte c = s.byte c := by
  have h0 := h 0 (by decide)
  have h1 := h 1 (by decide)
  have h2 := h 2 (by decide)
  have h3 := h 3 (by decide)
  unfold State.setWord
  rw [State.byte_setHalf_other _ (by simpa using h2) (by bv_omega), State.byte_setHalf_other _ (by simpa using h0)
    (by simpa using h1)]

theorem State.half_setWord_other (s : State) {a c : Word} (h0 : Outside c a 4) (h1 : Outside (c + 1) a 4) (v : Word) :
    (s.setWord a v).half c = s.half c :=
  State.half_congr (State.byte_setWord_other _ h0 _) (State.byte_setWord_other _ h1 _)

end Sys2Proof.Machine
end

