-- ==== Sys2Proof/Laws/Env.lean ====
section
/-! SUPPORT. Outcomes of operations, and the calls of an environment that only observes and replies: what each shared
operation does then, said once. -/

namespace Sys2Proof.Machine

/-! ## Outcomes -/

section
variable {α β : Type}

@[simp] theorem Run.andThen_ok (a : α) (s : State) (f : α → State → Run β) : (Run.ok a s).andThen f = f a s := rfl
@[simp] theorem Run.andThen_abort (m : MemFault) (s : State) (f : α → State → Run β) :
    (Run.abort m s : Run α).andThen f = .abort m s := rfl
@[simp] theorem Run.andThen_fault (e : Fault) (f : α → State → Run β) : (Run.fault e : Run α).andThen f = .fault e := rfl
@[simp] theorem Run.andThen_refused (e : Refusal) (f : α → State → Run β) :
    (Run.refused e : Run α).andThen f = .refused e := rfl
@[simp] theorem Run.onAbort_ok (a : α) (s : State) (f : MemFault → State → Run α) : (Run.ok a s).onAbort f = .ok a s := rfl
@[simp] theorem Run.onAbort_abort (m : MemFault) (s : State) (f : MemFault → State → Run α) :
    (Run.abort m s : Run α).onAbort f = f m s := rfl
@[simp] theorem Run.onAbort_fault (e : Fault) (f : MemFault → State → Run α) :
    (Run.fault e : Run α).onAbort f = .fault e := rfl
@[simp] theorem Run.onAbort_refused (e : Refusal) (f : MemFault → State → Run α) :
    (Run.refused e : Run α).onAbort f = .refused e := rfl
@[simp] theorem Run.noAbort_ok (a : α) (s : State) : (Run.ok a s).noAbort = .ok a s := rfl
@[simp] theorem Run.noAbort_abort (m : MemFault) (s : State) : (Run.abort m s : Run α).noAbort = .refused .doubleFault := rfl
@[simp] theorem Run.noAbort_fault (e : Fault) : (Run.fault e : Run α).noAbort = .fault e := rfl
@[simp] theorem Run.noAbort_refused (e : Refusal) : (Run.refused e : Run α).noAbort = .refused e := rfl
@[simp] theorem Run.thenCost_ok (a : α) (s : State) (c : Word) : (Run.ok a s).thenCost c = .ok c s := rfl
@[simp] theorem Run.andThen_unfinished (f : α → State → Run β) : (Run.unfinished : Run α).andThen f = .unfinished := rfl
@[simp] theorem Run.onAbort_unfinished (f : MemFault → State → Run α) :
    (Run.unfinished : Run α).onAbort f = .unfinished := rfl
@[simp] theorem Run.noAbort_unfinished : (Run.unfinished : Run α).noAbort = .unfinished := rfl
@[simp] theorem Run.outcome_ok (a : α) (s t : State) : (Run.ok a t).outcome s = .next t := rfl
@[simp] theorem Run.outcome_abort (m : MemFault) (s t : State) :
    (Run.abort m t : Run α).outcome s = .refused .doubleFault := rfl
@[simp] theorem Run.outcome_unfinished (s : State) : (Run.unfinished : Run α).outcome s = .next s.retry := rfl
@[simp] theorem Run.outcome_fault (e : Fault) (s : State) : (Run.fault e : Run α).outcome s = .fault e := rfl
@[simp] theorem Run.outcome_refused (e : Refusal) (s : State) : (Run.refused e : Run α).outcome s = .refused e := rfl
@[simp] theorem Run.ofOutcome_fault (s : State) (e : Fault) : Run.ofOutcome s (.fault e) = .fault e := rfl
@[simp] theorem Run.ofOutcome_refused (s : State) (e : Refusal) : Run.ofOutcome s (.refused e) = .refused e := rfl

theorem Run.ofOutcome_next {s t : State} (h : t.bound = s.bound) : Run.ofOutcome s (.next t) = .ok () t := if_pos h

/-- A retried state has another bound. -/
theorem State.retry_bound_ne (s : State) : s.retry.bound ≠ s.bound := by
  simp only [State.retry_bound]; omega

/-- A sequence completes exactly when both parts do. -/
theorem Run.andThen_eq_ok {r : Run α} {f : α → State → Run β} {b : β} {t : State} :
    r.andThen f = .ok b t ↔ ∃ a s, r = .ok a s ∧ f a s = .ok b t := by
  cases r <;> simp

/-- A next state at a port is that of a completed operation, or that in which an unfinished one is tried again. -/
theorem Run.outcome_eq_next {r : Run α} {s t : State} :
    r.outcome s = .next t ↔ (∃ a, r = .ok a t) ∨ r = .unfinished ∧ t = s.retry := by
  cases r <;> simp [Run.outcome, eq_comm]

/-- A next state with the same bound is that of a completed operation. -/
theorem Run.outcome_completed {r : Run α} {s t : State} (h : r.outcome s = .next t) (hb : t.bound = s.bound) :
    ∃ a, r = .ok a t := by
  rcases Run.outcome_eq_next.1 h with h | ⟨_, rfl⟩
  · exact h
  · exact absurd hb s.retry_bound_ne

theorem Run.noAbort_eq_ok {r : Run α} {a : α} {t : State} : r.noAbort = .ok a t ↔ r = .ok a t := by
  cases r <;> simp

/-- `P` holds in the state in which the operation ends, if it completes or is cut short. -/
def Run.Holds (P : State → Prop) : Run α → Prop
  | .ok _ s => P s
  | .abort _ s => P s
  | .unfinished => True
  | .fault _ => True
  | .refused _ => True

theorem Run.Holds.andThen {P : State → Prop} {r : Run α} {f : α → State → Run β} (hr : r.Holds P)
    (hf : ∀ a s, P s → (f a s).Holds P) : (r.andThen f).Holds P := by
  cases r with
  | ok a s => exact hf a s hr
  | abort m s => exact hr
  | unfinished => trivial
  | fault e => trivial
  | refused e => trivial

theorem Run.Holds.onAbort {P : State → Prop} {r : Run α} {f : MemFault → State → Run α} (hr : r.Holds P)
    (hf : ∀ m s, P s → (f m s).Holds P) : (r.onAbort f).Holds P := by
  cases r with
  | ok a s => exact hr
  | abort m s => exact hf m s hr
  | unfinished => trivial
  | fault e => trivial
  | refused e => trivial

theorem Run.Holds.noAbort {P : State → Prop} {r : Run α} (hr : r.Holds P) : r.noAbort.Holds P :=
  hr.onAbort fun _ _ _ => trivial

theorem Run.Holds.imp {P Q : State → Prop} {r : Run α} (hr : r.Holds P) (h : ∀ s, P s → Q s) : r.Holds Q := by
  cases r with
  | ok a s => exact h s hr
  | abort m s => exact h s hr
  | unfinished => trivial
  | fault e => trivial
  | refused e => trivial

end

/-! ## An environment that only observes and replies -/

theorem dropAnswer_subset (c : EnvCall) (l : List (EnvCall × Answer)) : ∀ e ∈ dropAnswer c l, e ∈ l := by
  induction l with
  | nil => simp [dropAnswer]
  | cons x t ih =>
    intro e he
    unfold dropAnswer at he
    split at he
    · exact List.mem_cons_of_mem _ he
    · rcases List.mem_cons.1 he with h | h
      · exact h ▸ List.mem_cons_self
      · exact List.mem_cons_of_mem _ (ih e h)

/-- The answer a call gets is a prepared one or the quiet one. -/
theorem firstAnswer_mem (c : EnvCall) (l : List (EnvCall × Answer)) :
    firstAnswer c l = Answer.quiet ∨ (c, firstAnswer c l) ∈ l := by
  induction l with
  | nil => exact Or.inl rfl
  | cons x t ih =>
    unfold firstAnswer
    split
    · rename_i h
      exact Or.inr (by rw [← h]; exact List.mem_cons_self)
    · exact ih.imp id (List.mem_cons_of_mem _)

theorem State.Observing.called {s : State} (h : s.Observing) (c : EnvCall) : (s.called c).Observing :=
  fun e he => h e (dropAnswer_subset c _ e he)

theorem State.Observing.calledAll {s : State} (h : s.Observing) (cs : List EnvCall) : (s.calledAll cs).Observing := by
  induction cs generalizing s with
  | nil => exact h
  | cons c cs ih => exact ih (h.called c)

/-- Only the prepared answers count for it. -/
theorem State.Observing.congr {s t : State} (h : s.Observing) (ha : t.answers = s.answers) : t.Observing := by
  unfold State.Observing
  rw [ha]
  exact h

theorem State.Observing.silent {s : State} (h : s.Observing) : s.Silent :=
  fun e he => (h e he).1

theorem State.Silent.called {s : State} (h : s.Silent) (c : EnvCall) : (s.called c).Silent :=
  fun e he => h e (dropAnswer_subset c _ e he)

theorem State.Silent.calledAll {s : State} (h : s.Silent) (cs : List EnvCall) : (s.calledAll cs).Silent := by
  induction cs generalizing s with
  | nil => exact h
  | cons c cs ih => exact ih (h.called c)

theorem State.Silent.congr {s t : State} (h : s.Silent) (ha : t.answers = s.answers) : t.Silent := by
  unfold State.Silent
  rw [ha]
  exact h

theorem State.Silent.acts_answer {s : State} (h : s.Silent) (c : EnvCall) : (s.answer c).acts = [] := by
  rcases firstAnswer_mem c s.answers with hq | hm
  · unfold State.answer; rw [hq]; rfl
  · exact h _ hm

theorem State.Observing.acts_answer {s : State} (h : s.Observing) (c : EnvCall) : (s.answer c).acts = [] :=
  h.silent.acts_answer c

theorem State.Observing.body_answer {s : State} (h : s.Observing) (c : EnvCall) : (s.answer c).body = [] := by
  rcases firstAnswer_mem c s.answers with hq | hm
  · unfold State.answer; rw [hq]; rfl
  · exact (h _ hm).2.1

theorem State.Observing.fault_answer {s : State} (h : s.Observing) (c : EnvCall) : (s.answer c).fault = none := by
  rcases firstAnswer_mem c s.answers with hq | hm
  · unfold State.answer; rw [hq]; rfl
  · exact (h _ hm).2.2

/-- An observing environment's validator ends in no fault. -/
theorem State.Observing.validatorFault {s : State} (h : s.Observing) (addr : Word) : s.validatorFault addr = none :=
  (h.calledAll _).fault_answer _

theorem firstAnswer_dropAnswer_ne {c d : EnvCall} (h : c ≠ d) (l : List (EnvCall × Answer)) :
    firstAnswer c (dropAnswer d l) = firstAnswer c l := by
  induction l with
  | nil => rfl
  | cons e t ih =>
    unfold dropAnswer
    split
    · rename_i he
      simp [firstAnswer, he, Ne.symm h]
    · simp only [firstAnswer, ih]

/-- A call does not change the answer another call gets. -/
theorem State.answer_called_ne {c d : EnvCall} (h : c ≠ d) (s : State) : (s.called d).answer c = s.answer c :=
  firstAnswer_dropAnswer_ne h s.answers

/-- Calls do not change the answer that a call not among them gets. -/
theorem State.answer_calledAll {c : EnvCall} {ds : List EnvCall} (h : c ∉ ds) (s : State) :
    (s.calledAll ds).answer c = s.answer c := by
  induction ds generalizing s with
  | nil => rfl
  | cons d ds ih =>
    rw [List.mem_cons, not_or] at h
    rw [State.calledAll_cons, ih h.2, State.answer_called_ne h.1]

/-- The validator's fault depends on the answers and the hooks alone. -/
theorem State.validatorFault_congr {s t : State} (ha : t.answers = s.answers) (hh : t.hooks = s.hooks) (addr : Word) :
    t.validatorFault addr = s.validatorFault addr := by
  unfold State.validatorFault State.answer
  rw [State.hookCalls_congr hh, State.calledAll_answers_congr ha]

/-- A callback that does nothing: its answer, and nothing but the bookkeeping. -/
theorem envCall_quiet (run : Runner) (c : EnvCall) {s : State} (h : (s.answer c).acts = []) :
    envCall run c s = .ok (s.answer c) (s.called c) := by
  simp [envCall, h, performActs, State.withCtx, State.called]

/-- A call of an observing environment: its reply, and nothing but the bookkeeping. -/
theorem envCall_observing (run : Runner) (c : EnvCall) {s : State} (h : s.Observing) :
    envCall run c s = .ok (s.answer c) (s.called c) :=
  envCall_quiet run c (h.acts_answer c)

theorem envAsk_observing (run : Runner) (c : EnvCall) {s : State} (h : s.Observing) :
    envAsk run c s = .ok (s.answer c).yes (s.called c) := by
  simp [envAsk, envCall_observing run c h]

theorem envTell_observing (run : Runner) (c : EnvCall) {s : State} (h : s.Observing) :
    envTell run c s = .ok () (s.called c) := by
  simp [envTell, envCall_observing run c h]

theorem State.replies_cons (s : State) (c : EnvCall) (cs : List EnvCall) :
    s.replies (c :: cs) = (s.answer c).yes :: (s.called c).replies cs := rfl

theorem State.replies_congr {s t : State} (h : t.answers = s.answers) (cs : List EnvCall) : t.replies cs = s.replies cs := by
  unfold State.replies
  rw [h]

theorem envAsk_quiet (run : Runner) (c : EnvCall) {s : State} (h : (s.answer c).acts = []) :
    envAsk run c s = .ok (s.answer c).yes (s.called c) := by
  simp [envAsk, envCall_quiet run c h]

theorem callHooks_silent (run : Runner) (key : HookKey) (arg : HookArg) (l : List Callback) {s : State} (h : s.Silent) :
    callHooks run key arg l s =
      .ok ((s.replies (l.map fun b => .hook b key arg)).any id) (s.calledAll (l.map fun b => .hook b key arg)) := by
  induction l generalizing s with
  | nil => rfl
  | cons b t ih =>
    simp [callHooks, envAsk_quiet run _ (h.acts_answer _), ih (h.called _), State.replies_cons]

theorem calledAll_withBusy (s : State) (b : List HookKey) (cs : List EnvCall) :
    (s.withBusy b).calledAll cs = (s.calledAll cs).withBusy b := by
  induction cs generalizing s with
  | nil => rfl
  | cons c cs ih => exact ih (s.called c)

@[simp] theorem State.withBusy_self (s : State) : s.withBusy s.busy = s := rfl

@[simp] theorem State.withBusy_withBusy (s : State) (a b : List HookKey) : (s.withBusy a).withBusy b = s.withBusy b := rfl

/-- A hook list whose callbacks do nothing: every callback called in order, the OR of the replies. -/
theorem invokeHooks_silent (run : Runner) (key : HookKey) (arg : HookArg) {s : State} (h : s.Silent) :
    invokeHooks run key arg s =
      .ok ((s.replies (s.hookCalls key arg)).any id) (s.calledAll (s.hookCalls key arg)) := by
  unfold invokeHooks
  rw [callHooks_silent run key arg _ (s := s.withBusy (key :: s.busy)) (h.congr rfl)]
  simp only [Run.andThen_ok, calledAll_withBusy, State.withBusy_withBusy]
  congr 1
  exact (congrArg (State.withBusy _) (State.calledAll_busy s _).symm).trans (State.withBusy_self _)

theorem invokeHooks_observing (run : Runner) (key : HookKey) (arg : HookArg) {s : State} (h : s.Observing) :
    invokeHooks run key arg s =
      .ok ((s.replies (s.hookCalls key arg)).any id) (s.calledAll (s.hookCalls key arg)) :=
  invokeHooks_silent run key arg h.silent

/-- The calls `SetPC` makes: the new-PC hooks in order, then the validation (spec 40 R88). -/
def State.setPCCalls (s : State) (addr : Word) : List EnvCall :=
  s.hookCalls .newPC (.address addr) ++ [.checkNewPC addr]

/-- `SetPC` where no callback does anything: the address installed, or the validator's memory fault, PC as before. -/
theorem setPC_silent (run : Runner) (addr : Word) {s : State} (h : s.Silent) :
    setPC run addr s =
      match s.validatorFault addr with
      | some m => .abort m (s.calledAll (s.setPCCalls addr))
      | none => .ok () ((s.calledAll (s.setPCCalls addr)).putPC addr) := by
  have h' := h.calledAll (s.hookCalls .newPC (.address addr))
  simp only [setPC, invokeHooks_silent run _ _ h, checkNewPC, envCall_quiet run _ (h'.acts_answer _), Run.andThen_ok,
    State.validatorFault, State.setPCCalls, State.calledAll_append, State.calledAll_cons, State.calledAll_nil]
  split <;> simp [*]

/-- `SetPC` in an observing environment. -/
theorem setPC_observing (run : Runner) (addr : Word) {s : State} (h : s.Observing) :
    setPC run addr s = .ok () ((s.calledAll (s.setPCCalls addr)).putPC addr) := by
  rw [setPC_silent run addr h.silent, h.validatorFault]

/-- `EventNewSP` in an observing environment. -/
theorem eventNewSP_observing (run : Runner) (ev : EventRecord) {s : State} (h : s.Observing) :
    eventNewSP run ev s = .ok () (s.calledAll (s.hookCalls .newSP (.event ev))) := by
  simp [eventNewSP, invokeHooks_observing run _ _ h]

/-- `EventLINK` in an observing environment. -/
theorem eventLINK_observing (run : Runner) (ev : EventRecord) {s : State} (h : s.Observing) :
    eventLINK run ev s = .ok () (s.calledAll (s.hookCalls .link (.event ev))) := by
  simp [eventLINK, invokeHooks_observing run _ _ h]

/-- `BreakCheck` in an observing environment. -/
theorem breakCheck_observing (run : Runner) {s : State} (h : s.Observing) :
    breakCheck run s = .ok (s.sf.brk || (s.answer .sessionShouldBreak).yes) (s.called .sessionShouldBreak) := by
  simp [breakCheck, envAsk_observing run _ h]

/-! ## Whatever the environment does -/

/-- `SetPC` that completes has installed its address, whatever hooks and validator did (spec 40 R88, 70 R217). -/
theorem setPC_installs {run : Runner} {addr : Word} {s t : State} {u : Unit} (h : setPC run addr s = .ok u t) :
    t.regs.pc = addr := by
  unfold setPC at h
  obtain ⟨_, s1, _, h⟩ := Run.andThen_eq_ok.1 h
  obtain ⟨_, s2, _, h⟩ := Run.andThen_eq_ok.1 h
  cases h
  rfl

end Sys2Proof.Machine
end

