-- ==== Sys2Proof/Laws/Exception.lean ====
section
/-! SUPPORT. What taking an exception does in an observing environment, once for each frame (spec 60 R160 to R167). -/

namespace Sys2Proof.Machine

theorem access_permitted {s : State} {a : Word} {n : AccessSize} {d : Dir} (h : s.Permits a n d) :
    access a n d s = .ok () s := by
  unfold access
  rw [h]

theorem memWriteHalf_permitted {s : State} {a : Word} (h : s.Permits a .two .write) (v : Half) :
    memWriteHalf a v s = .ok () (s.setHalf a v) := by
  simp [memWriteHalf, access_permitted h]

theorem memWriteWord_permitted {s : State} {a : Word} (h : s.Permits a .four .write) (v : Word) :
    memWriteWord a v s = .ok () (s.setWord a v) := by
  simp [memWriteWord, access_permitted h]

theorem memReadHalf_permitted {s : State} {a : Word} (h : s.Permits a .two .read) : memReadHalf a s = .ok (s.half a) s := by
  simp [memReadHalf, access_permitted h]

theorem memReadWord_permitted {s : State} {a : Word} (h : s.Permits a .four .read) : memReadWord a s = .ok (s.word a) s := by
  simp [memReadWord, access_permitted h]

theorem memReadFullWord_permitted {s : State} {a : Word} (h : s.PermitsFull a) : memReadFullWord a s = .ok (s.word a) s := by
  unfold memReadFullWord
  rw [h]

theorem State.byte_of_mem {s t : State} (h : t.mem = s.mem) (a : Word) : t.byte a = s.byte a := by
  unfold State.byte
  rw [h]

theorem State.half_of_mem {s t : State} (h : t.mem = s.mem) (a : Word) : t.half a = s.half a :=
  State.half_congr (State.byte_of_mem h _) (State.byte_of_mem h _)

theorem State.word_of_mem {s t : State} (h : t.mem = s.mem) (a : Word) : t.word a = s.word a :=
  State.word_congr (State.half_of_mem h _) (State.half_of_mem h _)

/-- The state after steps 1 and 3 and the lowering of A[7], with the hook calls made (spec 60 R161 to R164). -/
def entryState (vector : Nat) (size : Word) (s : State) : State :=
  let s1 := s.packSR.calledAll (s.hookCalls (.exception vector) (.vector vector))
  let s2 : State := { s1 with regs := s1.regs.enterSupervisor }
  s2.putSP (s2.sp - size)

theorem enterSupervisor_sp (r : RegFile) : r.enterSupervisor.a[7] = if r.s then r.a[7] else r.ssp := by
  unfold RegFile.enterSupervisor
  split <;> simp

theorem entryState_sp (vector : Nat) (size : Word) (s : State) :
    (entryState vector size s).sp = s.entrySP - size := by
  simp [entryState, State.sp, enterSupervisor_sp, State.entrySP]

@[simp] theorem entryState_cfg (vector : Nat) (size : Word) (s : State) : (entryState vector size s).cfg = s.cfg := by
  simp [entryState]

@[simp] theorem entryState_mem (vector : Nat) (size : Word) (s : State) : (entryState vector size s).mem = s.mem := by
  simp [entryState]

/-- The register file at the push: SR packed, supervisor mode, A[7] below the frame. -/
theorem entryState_regs (vector : Nat) (size : Word) (s : State) :
    (entryState vector size s).regs =
      { s.regs with
        a := s.regs.a.set 7 (s.entrySP - size)
        usp := if s.regs.s then s.regs.usp else s.regs.a[7]
        s := true
        sr := s.regs.pack } := by
  cases hs : s.regs.s <;> simp [entryState, RegFile.enterSupervisor, State.sp, State.entrySP, hs]

theorem entryState_observing {s : State} (h : s.Observing) (vector : Nat) (size : Word) :
    (entryState vector size s).Observing :=
  ((State.Observing.congr (t := s.packSR) h rfl).calledAll _).congr rfl

/-- The state after the short frame is pushed. -/
def pushedShort (vector : Nat) (s : State) : State :=
  ((entryState vector 6 s).setHalf (s.entrySP - 6) s.regs.pack).setWord (s.entrySP - 4) s.regs.pc

/-- The state after the long frame is pushed. -/
def pushedLong (vector : Nat) (s : State) : State :=
  (((((entryState vector 14 s).setHalf (s.entrySP - 14) 0).setWord (s.entrySP - 12) 0).setHalf (s.entrySP - 8) 0).setHalf
    (s.entrySP - 6) s.regs.pack).setWord (s.entrySP - 4) s.regs.pc

/-- Steps 5 to 7, from the state after the push. -/
def entered (vector : Nat) (s p : State) : State :=
  let va := vectorAddress s.regs.vbr vector
  ((p.calledAll (p.setPCCalls (p.word va))).putPC (p.word va)).clearTrace

/-- A hook that handles the exception leaves only the packed SR and the calls (spec 60 R162). -/
theorem processException_handled (run : Runner) {vector : Nat} {s : State} (hsil : s.Silent) (hv : vector ≤ 255)
    (hh : s.handles vector = true) :
    processException run vector s =
      .ok () (s.packSR.calledAll (s.hookCalls (.exception vector) (.vector vector))) := by
  have hsil' : s.packSR.Silent := hsil.congr rfl
  have hh' : ((s.packSR.replies (s.packSR.hookCalls (.exception vector) (.vector vector))).any id) = true := hh
  unfold processException
  rw [if_neg (by omega), invokeHooks_silent run _ _ hsil']
  simp only [Run.andThen_ok, hh', if_true]
  rfl

/-- With no hook that handles it, the exception goes on with steps 3 to 7 (spec 60 R162). -/
theorem processException_unhandled (run : Runner) {vector : Nat} {s : State} (hsil : s.Silent) (hv : vector ≤ 255)
    (hh : s.handles vector = false) :
    processException run vector s =
      enterException run vector (s.packSR.calledAll (s.hookCalls (.exception vector) (.vector vector))) := by
  have hsil' : s.packSR.Silent := hsil.congr rfl
  have hh' : ((s.packSR.replies (s.packSR.hookCalls (.exception vector) (.vector vector))).any id) = false := hh
  unfold processException
  rw [if_neg (by omega), invokeHooks_silent run _ _ hsil']
  simp only [Run.andThen_ok, hh', if_neg Bool.false_ne_true]
  rfl

/-- The state in which the frame is pushed. -/
def pushPoint (vector : Nat) (s : State) : State :=
  let s1 := s.packSR.calledAll (s.hookCalls (.exception vector) (.vector vector))
  { s1 with regs := s1.regs.enterSupervisor }

/-- Steps 3 and 4 with the short frame (spec 60 R163, R164, 30 R66). -/
theorem pushFrame_short {vector : Nat} {s : State} (hl : hasLongFrame vector = false) (hf : s.ShortFrameFits vector) :
    pushFrame vector (pushPoint vector s) = .ok () (pushedShort vector s) := by
  have hsp := entryState_sp vector 6 s
  have hregs := entryState_regs vector 6 s
  have h2 : s.entrySP - 6 + 2 = s.entrySP - 4 := by bv_omega
  unfold pushFrame frameBytes
  rw [hl]
  change (if false = true then writeLongFrame (entryState vector 6 s).sp (entryState vector 6 s)
    else writeShortFrame (entryState vector 6 s).sp (entryState vector 6 s)) = _
  rw [if_neg Bool.false_ne_true, hsp]
  unfold writeShortFrame
  rw [memWriteHalf_permitted (by unfold State.Permits; rw [entryState_cfg]; exact hf.1)]
  simp only [Run.andThen_ok, State.setHalf_regs, h2]
  rw [memWriteWord_permitted (by unfold State.Permits; rw [State.setHalf_cfg, entryState_cfg]; exact hf.2.1), hregs]
  rfl

/-- Steps 3 and 4 with the long frame (spec 60 R163, R164, 30 R67). -/
theorem pushFrame_long {vector : Nat} {s : State} (hl : hasLongFrame vector = true) (hf : s.LongFrameFits vector) :
    pushFrame vector (pushPoint vector s) = .ok () (pushedLong vector s) := by
  have hsp := entryState_sp vector 14 s
  have hregs := entryState_regs vector 14 s
  have h2 : s.entrySP - 14 + 2 = s.entrySP - 12 := by bv_omega
  have h6 : s.entrySP - 14 + 6 = s.entrySP - 8 := by bv_omega
  have h8 : s.entrySP - 14 + 8 = s.entrySP - 6 := by bv_omega
  have h10 : s.entrySP - 14 + 10 = s.entrySP - 4 := by bv_omega
  unfold pushFrame frameBytes
  rw [hl]
  change (if true = true then writeLongFrame (entryState vector 14 s).sp (entryState vector 14 s)
    else writeShortFrame (entryState vector 14 s).sp (entryState vector 14 s)) = _
  rw [if_pos rfl, hsp]
  unfold writeLongFrame
  rw [memWriteHalf_permitted (by unfold State.Permits; rw [entryState_cfg]; exact hf.1)]
  simp only [Run.andThen_ok, h2, h6, h8, h10]
  rw [memWriteWord_permitted (by unfold State.Permits; rw [State.setHalf_cfg, entryState_cfg]; exact hf.2.1)]
  simp only [Run.andThen_ok]
  rw [memWriteHalf_permitted (by unfold State.Permits; simp only [State.setWord_cfg, State.setHalf_cfg, entryState_cfg]; exact hf.2.2.1)]
  simp only [Run.andThen_ok, State.setHalf_regs, State.setWord_regs]
  rw [memWriteHalf_permitted (by unfold State.Permits; simp only [State.setWord_cfg, State.setHalf_cfg, entryState_cfg]; exact hf.2.2.2.1)]
  simp only [Run.andThen_ok, State.setHalf_regs, State.setWord_regs]
  rw [memWriteWord_permitted (by unfold State.Permits; simp only [State.setWord_cfg, State.setHalf_cfg, entryState_cfg]; exact hf.2.2.2.2.1), hregs]
  rfl

/-- Steps 3 to 7 once the frame is pushed and the vector can be read: the handler's address installed, or the double fault
where its validation ends in a memory fault (spec 60 R165 to R167, R172). -/
theorem enterException_pushed (run : Runner) {vector : Nat} {s p : State}
    (hpush : pushFrame vector (pushPoint vector s) = .ok () p) (hvbr : p.regs.vbr = s.regs.vbr) (hcfg : p.cfg = s.cfg)
    (hsil : p.Silent) (hvec : s.PermitsFull (vectorAddress s.regs.vbr vector)) :
    enterException run vector (s.packSR.calledAll (s.hookCalls (.exception vector) (.vector vector))) =
      match p.validatorFault (p.word (vectorAddress s.regs.vbr vector)) with
      | some _ => .refused .doubleFault
      | none => .ok () (entered vector s p) := by
  unfold enterException
  change ((pushFrame vector (pushPoint vector s)).andThen _).noAbort = _
  rw [hpush]
  simp only [Run.andThen_ok, hvbr]
  rw [memReadFullWord_permitted (by unfold State.PermitsFull; rw [hcfg]; exact hvec)]
  simp only [Run.andThen_ok]
  rw [setPC_silent run _ hsil]
  unfold State.validatorFault
  cases ((p.calledAll (p.hookCalls .newPC (.address (p.word (vectorAddress s.regs.vbr vector))))).answer
    (.checkNewPC (p.word (vectorAddress s.regs.vbr vector)))).fault <;> rfl

theorem entryState_silent {s : State} (h : s.Silent) (vector : Nat) (size : Word) : (entryState vector size s).Silent :=
  ((State.Silent.congr (t := s.packSR) h rfl).calledAll _).congr rfl

theorem pushedShort_silent {s : State} (h : s.Silent) (vector : Nat) : (pushedShort vector s).Silent :=
  (entryState_silent h vector 6).congr (by simp [pushedShort])

theorem pushedLong_silent {s : State} (h : s.Silent) (vector : Nat) : (pushedLong vector s).Silent :=
  (entryState_silent h vector 14).congr (by simp [pushedLong])

/-- The short frame: the whole of `ProcessException` (spec 60 R160, 30 R66). -/
theorem processException_short_eq (run : Runner) {vector : Nat} {s : State} (hsil : s.Silent) (hv : vector ≤ 255)
    (hl : hasLongFrame vector = false) (hh : s.handles vector = false) (hf : s.ShortFrameFits vector) :
    processException run vector s =
      match (pushedShort vector s).validatorFault ((pushedShort vector s).word (vectorAddress s.regs.vbr vector)) with
      | some _ => .refused .doubleFault
      | none => .ok () (entered vector s (pushedShort vector s)) := by
  rw [processException_unhandled run hsil hv hh]
  exact enterException_pushed run (pushFrame_short hl hf) (congrArg RegFile.vbr (entryState_regs vector 6 s) :)
    (by simp [pushedShort]) (pushedShort_silent hsil vector) hf.2.2

/-- The long frame: the whole of `ProcessException` (spec 60 R160, 30 R67). -/
theorem processException_long_eq (run : Runner) {vector : Nat} {s : State} (hsil : s.Silent) (hv : vector ≤ 255)
    (hl : hasLongFrame vector = true) (hh : s.handles vector = false) (hf : s.LongFrameFits vector) :
    processException run vector s =
      match (pushedLong vector s).validatorFault ((pushedLong vector s).word (vectorAddress s.regs.vbr vector)) with
      | some _ => .refused .doubleFault
      | none => .ok () (entered vector s (pushedLong vector s)) := by
  rw [processException_unhandled run hsil hv hh]
  exact enterException_pushed run (pushFrame_long hl hf) (congrArg RegFile.vbr (entryState_regs vector 14 s) :)
    (by simp [pushedLong]) (pushedLong_silent hsil vector) hf.2.2.2.2.2

@[simp] theorem entered_mem (vector : Nat) (s p : State) : (entered vector s p).mem = p.mem := by
  simp [entered]

/-- What entry leaves beside memory, from a pushed state that differs from the entry state in memory alone. -/
theorem entered_entersBy {vector : Nat} {size : Word} {s p : State} (hp : p = { entryState vector size s with mem := p.mem }) :
    EntersBy size vector s (entered vector s p) := by
  have hw : (entered vector s p).word (vectorAddress s.regs.vbr vector) = p.word (vectorAddress s.regs.vbr vector) :=
    State.word_of_mem (entered_mem vector s p) _
  have hr : p.regs = (entryState vector size s).regs := by rw [hp]
  have hr2 := entryState_regs vector size s
  have hh : p.hooks = s.hooks := by rw [hp]; simp [entryState]
  have hans : p.answers = (s.calledAll (s.hookCalls (.exception vector) (.vector vector))).answers := by
    rw [hp]
    exact State.calledAll_answers_congr (by simp) _
  have hcalls : p.calls = (s.hookCalls (.exception vector) (.vector vector)).reverse ++ s.calls := by
    rw [hp]; simp [entryState]
  have hpc : ∀ h, p.setPCCalls h = s.hookCalls .newPC (.address h) ++ [.checkNewPC h] := fun h => by
    unfold State.setPCCalls
    rw [State.hookCalls_congr hh]
  unfold EntersBy
  rw [hw, entered_mem]
  apply State.ext_fields
  case h1 => simp [entered, hr, hr2]
  case h14 =>
    unfold State.entryCalls entered
    simp only [State.clearTrace_answers, State.putPC_answers, hpc, State.calledAll_append]
    exact State.calledAll_answers_congr (State.calledAll_answers_congr hans _) _
  case h15 => simp [entered, hpc, hcalls, State.entryCalls]
  case h9 => exact entered_mem vector s p
  all_goals (unfold entered; simp; rw [hp]; simp [entryState])

theorem entered_observing {vector : Nat} {size : Word} {s p : State} (hobs : s.Observing)
    (hp : p = { entryState vector size s with mem := p.mem }) : (entered vector s p).Observing := by
  have : p.Observing := by
    rw [hp]
    exact (entryState_observing hobs vector size).congr rfl
  exact (this.calledAll _).congr rfl

theorem pushedShort_form (vector : Nat) (s : State) :
    pushedShort vector s = { entryState vector 6 s with mem := (pushedShort vector s).mem } := rfl

theorem pushedLong_form (vector : Nat) (s : State) :
    pushedLong vector s = { entryState vector 14 s with mem := (pushedLong vector s).mem } := rfl

theorem pushedShort_wf {vector : Nat} {s : State} (hwf : s.mem.wf = true) : (pushedShort vector s).mem.wf = true := by
  unfold pushedShort
  exact State.setWord_wf (State.setHalf_wf (by rw [entryState_mem]; exact hwf) _ _) _ _

theorem pushedLong_wf {vector : Nat} {s : State} (hwf : s.mem.wf = true) : (pushedLong vector s).mem.wf = true := by
  unfold pushedLong
  exact State.setWord_wf (State.setHalf_wf (State.setHalf_wf (State.setWord_wf (State.setHalf_wf
    (by rw [entryState_mem]; exact hwf) _ _) _ _) _ _) _ _) _ _

/-- Outside a range is outside each part of it. -/
theorem Outside.part {a b b' : Word} {n k m : Nat} (h : Outside a b n) (hb : b' = b + BitVec.ofNat 32 k)
    (hk : k + m ≤ n) : Outside a b' m := by
  intro j hj
  have := h (k + j) (by omega)
  rwa [BitVec.ofNat_add, ← BitVec.add_assoc, ← hb] at this

theorem State.byte_setHalf_outside (s : State) {a c : Word} (h : Outside c a 2) (v : Half) :
    (s.setHalf a v).byte c = s.byte c :=
  State.byte_setHalf_other _ (by simpa using h 0 (by decide)) (by simpa using h 1 (by decide)) _

/-- **The short frame.** In an observing environment, when no hook handles the vector and the frame fits, `ProcessException`
completes and enters with the short frame. -/
theorem processException_short (run : Runner) {vector : Nat} {s : State} (hobs : s.Observing) (hwf : s.mem.wf = true)
    (hv : vector ≤ 255) (hl : hasLongFrame vector = false) (hh : s.handles vector = false)
    (hf : s.ShortFrameFits vector) :
    ∃ t, processException run vector s = .ok () t ∧ EntersShort vector s t ∧ t.Observing ∧ t.mem.wf = true := by
  have hobs2 : (pushedShort vector s).Observing := (entryState_observing hobs vector 6).congr rfl
  have heq := processException_short_eq run hobs.silent hv hl hh hf
  rw [hobs2.validatorFault] at heq
  refine ⟨_, heq, ⟨entered_entersBy (pushedShort_form vector s),
      by rw [entered_mem]; exact pushedShort_wf hwf, ?_, ?_, ?_⟩,
    entered_observing hobs (pushedShort_form vector s), by rw [entered_mem]; exact pushedShort_wf hwf⟩
  · rw [State.half_of_mem (entered_mem _ _ _)]
    unfold pushedShort
    rw [State.half_setWord_other, State.half_setHalf_same (by rw [entryState_mem]; exact hwf)]
    · intro k hk
      interval_cases k <;> bv_omega
    · intro k hk
      interval_cases k <;> bv_omega
  · rw [State.word_of_mem (entered_mem _ _ _)]
    unfold pushedShort
    rw [State.word_setWord_same (State.setHalf_wf (by rw [entryState_mem]; exact hwf) _ _)]
  · intro a ha
    rw [State.byte_of_mem (entered_mem _ _ _)]
    unfold pushedShort
    rw [State.byte_setWord_other _ (ha.part (k := 2) (by bv_omega) (by decide)),
      State.byte_setHalf_outside _ (ha.part (k := 0) (by bv_omega) (by decide)),
      State.byte_of_mem (entryState_mem _ _ _)]

/-- **The long frame.** -/
theorem processException_long (run : Runner) {vector : Nat} {s : State} (hobs : s.Observing) (hwf : s.mem.wf = true)
    (hv : vector ≤ 255) (hl : hasLongFrame vector = true) (hh : s.handles vector = false)
    (hf : s.LongFrameFits vector) :
    ∃ t, processException run vector s = .ok () t ∧ EntersLong vector s t ∧ t.Observing ∧ t.mem.wf = true := by
  have hw0 : (entryState vector 14 s).mem.wf = true := by rw [entryState_mem]; exact hwf
  have hw1 := State.setHalf_wf hw0 (s.entrySP - 14) 0
  have hw2 := State.setWord_wf hw1 (s.entrySP - 12) 0
  have hw3 := State.setHalf_wf hw2 (s.entrySP - 8) 0
  have hw4 := State.setHalf_wf hw3 (s.entrySP - 6) s.regs.pack
  have hobs2 : (pushedLong vector s).Observing := (entryState_observing hobs vector 14).congr rfl
  have heq := processException_long_eq run hobs.silent hv hl hh hf
  rw [hobs2.validatorFault] at heq
  refine ⟨_, heq, ⟨entered_entersBy (pushedLong_form vector s),
      by rw [entered_mem]; exact pushedLong_wf hwf, ?_, ?_, ?_, ?_, ?_, ?_⟩,
    entered_observing hobs (pushedLong_form vector s), by rw [entered_mem]; exact pushedLong_wf hwf⟩
  · rw [State.half_of_mem (entered_mem _ _ _)]
    unfold pushedLong
    rw [State.half_setWord_other, State.half_setHalf_other, State.half_setHalf_other, State.half_setWord_other,
      State.half_setHalf_same hw0]
    all_goals first
      | bv_omega
      | (intro k hk; interval_cases k <;> bv_omega)
  · rw [State.word_of_mem (entered_mem _ _ _)]
    unfold pushedLong
    rw [State.word_congr (s := ((entryState vector 14 s).setHalf (s.entrySP - 14) 0).setWord (s.entrySP - 12) 0),
      State.word_setWord_same hw1]
    · rw [State.half_setWord_other, State.half_setHalf_other, State.half_setHalf_other]
      all_goals first
        | bv_omega
        | (intro k hk; interval_cases k <;> bv_omega)
    · rw [State.half_setWord_other, State.half_setHalf_other, State.half_setHalf_other]
      all_goals first
        | bv_omega
        | (intro k hk; interval_cases k <;> bv_omega)
  · rw [State.half_of_mem (entered_mem _ _ _)]
    unfold pushedLong
    rw [State.half_setWord_other, State.half_setHalf_other, State.half_setHalf_same hw2]
    all_goals first
      | bv_omega
      | (intro k hk; interval_cases k <;> bv_omega)
  · rw [State.half_of_mem (entered_mem _ _ _)]
    unfold pushedLong
    rw [State.half_setWord_other, State.half_setHalf_same hw3]
    all_goals (intro k hk; interval_cases k <;> bv_omega)
  · rw [State.word_of_mem (entered_mem _ _ _)]
    unfold pushedLong
    rw [State.word_setWord_same hw4]
  · intro a ha
    rw [State.byte_of_mem (entered_mem _ _ _)]
    unfold pushedLong
    rw [State.byte_setWord_other _ (ha.part (k := 10) (by bv_omega) (by decide)),
      State.byte_setHalf_outside _ (ha.part (k := 8) (by bv_omega) (by decide)),
      State.byte_setHalf_outside _ (ha.part (k := 6) (by bv_omega) (by decide)),
      State.byte_setWord_other _ (ha.part (k := 2) (by bv_omega) (by decide)),
      State.byte_setHalf_outside _ (ha.part (k := 0) (by bv_omega) (by decide)),
      State.byte_of_mem (entryState_mem _ _ _)]

end Sys2Proof.Machine
end

