-- ==== Sys2Proof/Laws/Take.lean ====
section
/-! SUPPORT. Taking an exception in any state that can take it (spec 60 R160), and what a handler that takes one leaves;
what callbacks and stores keep. -/

namespace Sys2Proof.Machine

/-- **Taking an exception.** In a state that can take the vector, `ProcessException` completes and has taken it. -/
theorem processException_takes (run : Runner) {vector : Nat} {s : State} (h : s.CanTake vector) :
    ∃ t, processException run vector s = .ok () t ∧ Takes vector s t ∧ t.Observing ∧ t.mem.wf = true := by
  obtain ⟨hv, hobs, hwf, hfit⟩ := h
  by_cases hh : s.handles vector = true
  · refine ⟨_, processException_handled run hobs.silent hv hh, ⟨fun h => absurd hh (by simp [h]), fun _ => ?_⟩,
      (State.Observing.congr (t := s.packSR) hobs rfl).calledAll _, by simpa using hwf⟩
    apply State.ext_fields <;> simp
    exact State.calledAll_answers_congr (State.packSR_answers s) _
  · have hh' : s.handles vector = false := by simpa using hh
    by_cases hl : hasLongFrame vector = true
    · obtain ⟨t, he, hent, hto, htw⟩ := processException_long run hobs hwf hv hl hh' ((hfit hh').1 hl)
      exact ⟨t, he, ⟨fun _ => ⟨fun _ => hent, fun h => absurd hl (by simp [h])⟩, fun h => absurd h hh⟩, hto, htw⟩
    · have hl' : hasLongFrame vector = false := by simpa using hl
      obtain ⟨t, he, hent, hto, htw⟩ := processException_short run hobs hwf hv hl' hh' ((hfit hh').2 hl')
      exact ⟨t, he, ⟨fun _ => ⟨fun h => absurd h hl, fun _ => hent⟩, fun h => absurd h hh⟩, hto, htw⟩

/-- Who acts, the cycle count and the activations, replaced: taking an exception looks at none of them. -/
def State.relabel (s : State) (c : Ctx) (k : Word) (p : List Phase) : State :=
  { s with ctx := c, cyc := k, acts := p }

theorem State.canTake_relabel {s : State} {c : Ctx} {k : Word} {p : List Phase} {v : Nat} :
    (s.relabel c k p).CanTake v ↔ s.CanTake v :=
  Iff.rfl

theorem State.calledAll_relabel (s : State) (c : Ctx) (k : Word) (p : List Phase) (cs : List EnvCall) :
    (s.relabel c k p).calledAll cs = (s.calledAll cs).relabel c k p := by
  induction cs generalizing s with
  | nil => rfl
  | cons x cs ih => exact ih (s.called x)

theorem EntersBy.relabel {size : Word} {v : Nat} {s t : State} (h : EntersBy size v s t) (c : Ctx) (k : Word) (p : List Phase) :
    EntersBy size v (s.relabel c k p) (t.relabel c k p) := by
  unfold EntersBy at h ⊢
  have h' := congrArg (fun x => State.relabel x c k p) h
  dsimp only at h'
  refine h'.trans ?_
  change _ = ({ (s.relabel c k p).calledAll (s.entryCalls v (t.word (vectorAddress s.regs.vbr v))) with
    regs := _, sf := _, mem := _ } : State)
  rw [State.calledAll_relabel]
  rfl

/-- Taking an exception does not depend on who acts, on the cycle count or on the activations. -/
theorem Takes.relabel {v : Nat} {s t : State} (h : Takes v s t) (c : Ctx) (k : Word) (p : List Phase) :
    Takes v (s.relabel c k p) (t.relabel c k p) :=
  ⟨fun hh => ⟨fun hl => ⟨((h.1 hh).1 hl).1.relabel c k p, ((h.1 hh).1 hl).2⟩,
      fun hl => ⟨((h.1 hh).2 hl).1.relabel c k p, ((h.1 hh).2 hl).2⟩⟩,
    fun hh => by
      have h' := congrArg (fun x => State.relabel x c k p) (h.2 hh)
      dsimp only at h'
      refine h'.trans ?_
      change _ = ({ (s.relabel c k p).calledAll (s.hookCalls (.exception v) (.vector v)) with regs := _ } : State)
      rw [State.calledAll_relabel]
      rfl⟩

/-- The sequencing and the parameters are the same in both states. -/
abbrev State.SameFrame (s t : State) : Prop :=
  t.ctx = s.ctx ∧ t.cyc = s.cyc ∧ t.cfg = s.cfg ∧ t.acts = s.acts ∧ t.nested = s.nested ∧ t.hooks = s.hooks ∧
    t.busy = s.busy ∧ t.bound = s.bound ∧ t.port = s.port

theorem EntersBy.keeps {size : Word} {v : Nat} {s t : State} (h : EntersBy size v s t) : s.SameFrame t :=
  ⟨(congrArg State.ctx h).trans (s.calledAll_ctx _), (congrArg State.cyc h).trans (s.calledAll_cyc _),
    (congrArg State.cfg h).trans (s.calledAll_cfg _), (congrArg State.acts h).trans (s.calledAll_acts _),
    (congrArg State.nested h).trans (s.calledAll_nested _), (congrArg State.hooks h).trans (s.calledAll_hooks _),
    (congrArg State.busy h).trans (s.calledAll_busy _), (congrArg State.bound h).trans (s.calledAll_bound _),
    (congrArg State.port h).trans (s.calledAll_port _)⟩

/-- What neither an entry nor a hook that handles the exception changes. -/
theorem Takes.keeps {v : Nat} {s t : State} (h : Takes v s t) : s.SameFrame t := by
  by_cases hb : s.handles v = true
  · rw [h.2 hb]
    simp [State.SameFrame]
  · have hb' : s.handles v = false := by simpa using hb
    by_cases hl : hasLongFrame v = true
    · exact ((h.1 hb').1 hl).1.keeps
    · exact ((h.1 hb').2 (by simpa using hl)).1.keeps

theorem interruptVector_eq {base : Int} {l v : Nat} (h : (v : Int) = base + l) (hv : v ≤ 255) :
    interruptVector base l = some v := by
  unfold interruptVector
  rw [← h]
  simp [hv]

/-- `ProcessInterrupt` where its vector can be taken (60 R174). -/
theorem processInterrupt_takes (run : Runner) {level v : Nat} {s : State} (hl : level ≤ 7) (h : s.Observing)
    (hv : (v : Int) = s.baseRead + level) (hcan : (s.called .interruptVectorBase).CanTake v) :
    ∃ u, processInterrupt run level s =
        .ok () { u with regs := { u.regs with imask := BitVec.ofNat 3 level }, sf := { u.sf with int := true } } ∧
      Takes v (s.called .interruptVectorBase) u ∧ u.Observing := by
  obtain ⟨u, hu, htk, huo, -⟩ := processException_takes run hcan
  refine ⟨u, ?_, htk, huo⟩
  have hiv : interruptVector ((s.answer .interruptVectorBase).number.getD (s.called .interruptVectorBase).cfg.vectorBase)
      level = some v := interruptVector_eq hv hcan.1
  unfold processInterrupt
  rw [if_neg (by omega), envCall_observing run _ h]
  simp only [Run.andThen_ok, hiv, hu]

/-- A handler whose body completes. -/
theorem runHandler_ok {run : Runner} {body : State → Run Word} {s t : State} {c : Word}
    (h : body (s.withCtx .handler) = .ok c t) : runHandler run body s = .ok () ((t.withCtx s.ctx).addCycles c) := by
  unfold runHandler
  rw [h]
  rfl

/-- A handler whose body takes an exception in a state `m` and returns its cost: what it leaves is the exception taken in
`m` with the cost counted. -/
theorem runHandler_takes {run : Runner} {body : State → Run Word} {s m : State} {v : Nat} {c : Word}
    (hb : body (s.withCtx .handler) = (processException run v (m.withCtx .handler)).thenCost c) (hm : m.ctx = s.ctx)
    (hcan : m.CanTake v) :
    ∃ t, runHandler run body s = .ok () t ∧ Takes v (m.addCycles c) t := by
  obtain ⟨u, hu, htk, -, -⟩ := processException_takes run (s := m.withCtx .handler) (vector := v) hcan
  refine ⟨_, runHandler_ok (hb.trans (by rw [hu]; rfl)), ?_⟩
  have h2 := htk.relabel s.ctx (m.cyc + c) m.acts
  have hk := htk.keeps.2.1
  have e1 : (m.withCtx .handler).relabel s.ctx (m.cyc + c) m.acts = m.addCycles c := by
    rw [← hm]; rfl
  have e2 : u.relabel s.ctx (m.cyc + c) m.acts = (u.withCtx s.ctx).addCycles c := by
    have ha : u.acts = m.acts := htk.keeps.2.2.2.1
    have hc : u.cyc = m.cyc := hk
    simp [State.relabel, State.addCycles, State.withCtx, ha, hc]
  rwa [e1, e2] at h2

/-- `BusError` and `AddressError` in a state that can take the vector (60 R168, R169). -/
theorem memoryFault_takes (run : Runner) (m : MemFault) {s : State} (h : (s.recorded m).CanTake m.vector) :
    ∃ t, memoryFault run m s = .ok () t ∧ Takes m.vector (s.recorded m) t := by
  obtain ⟨u, hu, htk, -, -⟩ := processException_takes run h
  refine ⟨u, ?_, htk⟩
  unfold memoryFault
  unfold MemFault.vector at hu
  cases hk : m.kind <;> simp only [hk] at hu ⊢ <;> exact hu

/-- A handler cut short by a memory fault: the fault is recorded and its exception taken, nothing counted (60 R171). -/
theorem runHandler_faults {run : Runner} {body : State → Run Word} {s m : State} {f : MemFault}
    (hb : body (s.withCtx .handler) = .abort f m) (hcan : ((m.withCtx s.ctx).recorded f).CanTake f.vector) :
    ∃ t, runHandler run body s = .ok () t ∧ Takes f.vector ((m.withCtx s.ctx).recorded f) t := by
  unfold runHandler
  rw [hb]
  exact memoryFault_takes run f hcan

/-- A handler of an instruction cut short by a memory fault: the same at the port. -/
theorem faultsAt_of_body {i : Instr} {s m : State} {f : MemFault} {body : State → Run Word}
    (hi : exec i s = (runHandler s.runner body s).outcome s) (hb : body (s.withCtx .handler) = .abort f m) :
    FaultsAt i s (m.withCtx s.ctx) f := by
  intro hcan
  obtain ⟨t, he, ht⟩ := runHandler_faults hb hcan
  exact ⟨t, by rw [hi, he, Run.outcome_ok], ht⟩

/-- Calls do not depend on who acts. -/
theorem State.calledAll_withCtx (s : State) (c : Ctx) (cs : List EnvCall) :
    (s.withCtx c).calledAll cs = (s.calledAll cs).withCtx c := by
  induction cs generalizing s with
  | nil => rfl
  | cons x cs ih => exact ih (s.called x)

/-- A read depends on the policy and on memory alone. -/
theorem memReadHalf_congr {s t : State} (hc : t.cfg = s.cfg) (hm : t.mem = s.mem) (a : Word) :
    (∃ k, memReadHalf a s = .abort k s ∧ memReadHalf a t = .abort k t) ∨
      memReadHalf a s = .ok (s.half a) s ∧ memReadHalf a t = .ok (s.half a) t := by
  unfold memReadHalf access
  rw [hc]
  cases s.cfg.policy.verdict a .two .read
  · exact Or.inr (by simp [State.half_of_mem hm])
  · exact Or.inl (by simp)

theorem memReadWord_congr {s t : State} (hc : t.cfg = s.cfg) (hm : t.mem = s.mem) (a : Word) :
    (∃ k, memReadWord a s = .abort k s ∧ memReadWord a t = .abort k t) ∨
      memReadWord a s = .ok (s.word a) s ∧ memReadWord a t = .ok (s.word a) t := by
  unfold memReadWord access
  rw [hc]
  cases s.cfg.policy.verdict a .four .read
  · exact Or.inr (by simp [State.word_of_mem hm])
  · exact Or.inl (by simp)

/-- The target of a JSR depends on the registers, the policy and memory alone. -/
theorem controlAddress_congr {s t : State} (hr : t.regs = s.regs) (hc : t.cfg = s.cfg) (hm : t.mem = s.mem)
    {mode reg : BitVec 3} {r : Word × Word} (h : controlAddress mode reg s = .ok r s) :
    controlAddress mode reg t = .ok r t := by
  unfold controlAddress at h ⊢
  rw [hr]
  rcases memReadHalf_congr hc hm (s.regs.pc + 2) with ⟨_, h1, h2⟩ | ⟨h1, h2⟩ <;>
    rcases memReadWord_congr hc hm (s.regs.pc + 2) with ⟨_, h3, h4⟩ | ⟨h3, h4⟩ <;>
    simp only [h1, h2, h3, h4, hr, Run.andThen_ok, Run.andThen_abort] at h ⊢ <;> revert h <;> (repeat' split) <;>
    simp_all

/-- A store of an injected handler keeps memory canonical, completed or cut short. -/
theorem memStore_keeps_form (addr : Word) (size : AccessSize) (v : Word) {s : State} (h : s.mem.wf = true) :
    (memStore addr size v s).Holds fun t => t.mem.wf = true := by
  have hacc : ∀ n d, (access addr n d s).Holds fun t => t.mem.wf = true := by
    intro n d
    unfold access
    split <;> exact h
  cases size
  · exact (hacc .one .write).andThen fun _ t ht => State.setByte_wf ht _ _
  · exact (hacc .two .write).andThen fun _ t ht => State.setHalf_wf ht _ _
  · exact (hacc .four .write).andThen fun _ t ht => State.setWord_wf ht _ _

/-- Bytes placed keep memory canonical. -/
theorem storeBytes_keeps_form (l : List Byte) (a : Word) {s : State} (h : s.mem.wf = true) :
    (storeBytes l a s).mem.wf = true := by
  induction l generalizing a s with
  | nil => exact h
  | cons b t ih => exact ih (a + 1) (State.setByte_wf h a b)

/-- The memory after reset is canonical. -/
theorem reset_memory_form : State.reset.mem.wf = true := rfl

end Sys2Proof.Machine
end

