-- ==== Sys2Proof/Laws/Blob.lean ====
section
/-! SUPPORT. The persisted blob (spec 30 R72): it shows its register file, no other bytes do, and what `load` reads from it. -/

namespace Sys2Proof.Machine

/-- A word's bytes, written out. -/
theorem wordBytes_eq (w : Word) :
    wordBytes w = [w.extractLsb' 24 8, w.extractLsb' 16 8, w.extractLsb' 8 8, w.extractLsb' 0 8] := by
  have h : ∀ a b : Nat, b ≤ 8 → (w.extractLsb' a 16).extractLsb' b 8 = w.extractLsb' (a + b) 8 := by
    intro a b hb
    ext i hi
    simp only [BitVec.getElem_extractLsb', BitVec.getLsbD_extractLsb']
    simp [show b + i < 16 by omega, Nat.add_assoc]
  simp only [wordBytes, halfBytes, h 16 8 (by decide), h 16 0 (by decide), h 0 8 (by decide), h 0 0 (by decide)]
  rfl

theorem wordOfBytes_eq (w : Word) :
    wordOfBytes (w.extractLsb' 24 8) (w.extractLsb' 16 8) (w.extractLsb' 8 8) (w.extractLsb' 0 8) = w := by
  unfold wordOfBytes halfOfBytes
  rw [BitVec.extractLsb'_append_extractLsb'_eq_extractLsb' (by rfl), BitVec.extractLsb'_append_extractLsb'_eq_extractLsb' (by rfl)]
  exact word_halves w

/-- Words read back from their bytes. -/
theorem takeWords_flatMap (ws : List Word) (rest : List Byte) :
    takeWords ws.length (ws.flatMap wordBytes ++ rest) = some (ws, rest) := by
  induction ws with
  | nil => rfl
  | cons w ws ih =>
    simp only [List.flatMap_cons, wordBytes_eq w, List.cons_append, List.nil_append, List.length_cons, takeWords, ih,
      Option.map_some, wordOfBytes_eq]

/-- The four bytes of the word at an index. -/
theorem slice_flatMap (ws : List Word) (rest : List Byte) (k : Nat) (w : Word) (h : ws[k]? = some w) :
    ((ws.flatMap wordBytes ++ rest).drop (4 * k)).take 4 = wordBytes w := by
  induction ws generalizing k with
  | nil => simp at h
  | cons x ws ih =>
    cases k with
    | zero =>
      simp only [List.getElem?_cons_zero, Option.some.injEq] at h
      subst h
      simp [wordBytes_eq]
    | succ k =>
      rw [List.getElem?_cons_succ] at h
      rw [List.flatMap_cons, wordBytes_eq x, show 4 * (k + 1) = 4 * k + 4 from rfl]
      exact ih k h

end Sys2Proof.Machine

namespace Sys2Proof

open Machine

/-- The words of a blob, in order. -/
def RegFile.blobWords (r : RegFile) : List Word :=
  r.d.toList ++ r.a.toList ++ [r.pc, r.usp, r.ssp, r.vbr, r.sfc, r.dfc, r.fpcr, r.fpsr, r.fpiar]

/-- The status bytes of a blob, in order. -/
def RegFile.blobStatus (r : RegFile) : List Byte :=
  [flagByte r.t1, flagByte r.t0, flagByte r.s, flagByte r.m, r.imask.zeroExtend 8, flagByte r.x, flagByte r.n,
    flagByte r.z, flagByte r.v, flagByte r.c]

theorem RegFile.blob_eq (r : RegFile) : r.blob = r.blobWords.flatMap wordBytes ++ r.blobStatus := by
  simp [RegFile.blob, RegFile.blobWords, RegFile.blobStatus]

theorem RegFile.blobWords_length (r : RegFile) : r.blobWords.length = 25 := by
  simp [RegFile.blobWords]

theorem RegFile.blob_words_length (ws : List Word) : (ws.flatMap wordBytes).length = 4 * ws.length := by
  induction ws with
  | nil => rfl
  | cons w ws ih => simp only [List.flatMap_cons, List.length_append, wordBytes_eq, List.length_cons, List.length_nil, ih]; omega

theorem RegFile.blob_length (r : RegFile) : r.blob.length = 110 := by
  rw [r.blob_eq, List.length_append, RegFile.blob_words_length, r.blobWords_length]
  rfl

/-- The blob shows its register file. -/
theorem RegFile.shown_blob (r : RegFile) : r.Shown r.blob := by
  have hlen : (r.blobWords.flatMap wordBytes).length = 100 := by
    rw [RegFile.blob_words_length, r.blobWords_length]
  have hstat : ∀ k, r.blob[100 + k]? = r.blobStatus[k]? := by
    intro k
    rw [r.blob_eq, List.getElem?_append_right (by omega), hlen, Nat.add_sub_cancel_left]
  have hword : ∀ k w, r.blobWords[k]? = some w → (r.blob.drop (4 * k)).take 4 =
      [w.extractLsb' 24 8, w.extractLsb' 16 8, w.extractLsb' 8 8, w.extractLsb' 0 8] := by
    intro k w h
    rw [r.blob_eq, slice_flatMap _ _ k w h, wordBytes_eq]
  refine ⟨r.blob_length, ?_, ?_, hstat 4⟩
  · rintro k w (⟨n, rfl, rfl⟩ | ⟨n, rfl, rfl⟩ | h)
    · refine hword n _ ?_
      simp [RegFile.blobWords, List.getElem?_append]
    · rw [show 32 + 4 * n.val = 4 * (8 + n.val) by omega]
      refine hword (8 + n) _ ?_
      simp [RegFile.blobWords, List.getElem?_append]
    · have key : ∀ j, j < 9 → ∀ w, [r.pc, r.usp, r.ssp, r.vbr, r.sfc, r.dfc, r.fpcr, r.fpsr, r.fpiar][j]? = some w →
          (r.blob.drop (64 + 4 * j)).take 4 =
            [w.extractLsb' 24 8, w.extractLsb' 16 8, w.extractLsb' 8 8, w.extractLsb' 0 8] := by
        intro j hj w hw
        rw [show 64 + 4 * j = 4 * (16 + j) by omega]
        refine hword (16 + j) w ?_
        rw [RegFile.blobWords, List.getElem?_append_right (by simp)]
        simpa using hw
      obtain ⟨j, hj⟩ := List.getElem?_of_mem h
      have hw := congrArg (Option.map Prod.snd) hj
      have hk := congrArg (Option.map Prod.fst) hj
      rw [← List.getElem?_map] at hw hk
      have hlt : j < 9 := (List.getElem?_eq_some_iff.1 hw).1
      obtain rfl : 64 + 4 * j = k := by
        rw [show List.map Prod.fst _ = (List.range 9).map (64 + 4 * ·) from rfl, List.getElem?_map,
          List.getElem?_range hlt] at hk
        exact Option.some.inj hk
      exact key j hlt w hw
  · intro k f h
    refine (?_ : ∀ e ∈ _, r.blob[e.1]? = some (if e.2 then 1 else 0)) (k, f) h
    simp only [List.forall_mem_cons]
    exact ⟨hstat 0, hstat 1, hstat 2, hstat 3, hstat 5, hstat 6, hstat 7, hstat 8, hstat 9, fun _ he => nomatch he⟩

/-- No other bytes show it. -/
theorem RegFile.Shown.unique {r : RegFile} {b c : List Byte} (hb : r.Shown b) (hc : r.Shown c) : b = c := by
  obtain ⟨hbl, hbw, hbf, hbm⟩ := hb
  obtain ⟨hcl, hcw, hcf, hcm⟩ := hc
  have hw : ∀ j, j < 25 → ∃ w, (b.drop (4 * j)).take 4 = w ∧ (c.drop (4 * j)).take 4 = w := by
    intro j hj
    by_cases h8 : j < 8
    · exact ⟨_, hbw (4 * j) r.d[j] (Or.inl ⟨⟨j, h8⟩, rfl, rfl⟩), hcw (4 * j) r.d[j] (Or.inl ⟨⟨j, h8⟩, rfl, rfl⟩)⟩
    · by_cases h16 : j < 16
      · have h : 4 * j = 32 + 4 * (⟨j - 8, by omega⟩ : Fin 8).val := by simp; omega
        exact ⟨_, hbw (4 * j) _ (Or.inr (Or.inl ⟨⟨j - 8, by omega⟩, h, rfl⟩)),
          hcw (4 * j) _ (Or.inr (Or.inl ⟨⟨j - 8, by omega⟩, h, rfl⟩))⟩
      · interval_cases j
        · exact ⟨_, hbw 64 r.pc (Or.inr (Or.inr (by simp))), hcw 64 r.pc (Or.inr (Or.inr (by simp)))⟩
        · exact ⟨_, hbw 68 r.usp (Or.inr (Or.inr (by simp))), hcw 68 r.usp (Or.inr (Or.inr (by simp)))⟩
        · exact ⟨_, hbw 72 r.ssp (Or.inr (Or.inr (by simp))), hcw 72 r.ssp (Or.inr (Or.inr (by simp)))⟩
        · exact ⟨_, hbw 76 r.vbr (Or.inr (Or.inr (by simp))), hcw 76 r.vbr (Or.inr (Or.inr (by simp)))⟩
        · exact ⟨_, hbw 80 r.sfc (Or.inr (Or.inr (by simp))), hcw 80 r.sfc (Or.inr (Or.inr (by simp)))⟩
        · exact ⟨_, hbw 84 r.dfc (Or.inr (Or.inr (by simp))), hcw 84 r.dfc (Or.inr (Or.inr (by simp)))⟩
        · exact ⟨_, hbw 88 r.fpcr (Or.inr (Or.inr (by simp))), hcw 88 r.fpcr (Or.inr (Or.inr (by simp)))⟩
        · exact ⟨_, hbw 92 r.fpsr (Or.inr (Or.inr (by simp))), hcw 92 r.fpsr (Or.inr (Or.inr (by simp)))⟩
        · exact ⟨_, hbw 96 r.fpiar (Or.inr (Or.inr (by simp))), hcw 96 r.fpiar (Or.inr (Or.inr (by simp)))⟩
  apply List.ext_getElem?
  intro i
  by_cases h : i < 100
  · obtain ⟨w, h1, h2⟩ := hw (i / 4) (by omega)
    have e : ∀ l : List Byte, l[i]? = ((l.drop (4 * (i / 4))).take 4)[i % 4]? := by
      intro l
      rw [List.getElem?_take_of_lt (Nat.mod_lt _ (by decide)), List.getElem?_drop, Nat.div_add_mod]
    rw [e b, e c, h1, h2]
  · by_cases h2 : i < 110
    · interval_cases i
      · rw [hbf 100 r.t1 (by simp), hcf 100 r.t1 (by simp)]
      · rw [hbf 101 r.t0 (by simp), hcf 101 r.t0 (by simp)]
      · rw [hbf 102 r.s (by simp), hcf 102 r.s (by simp)]
      · rw [hbf 103 r.m (by simp), hcf 103 r.m (by simp)]
      · rw [hbm, hcm]
      · rw [hbf 105 r.x (by simp), hcf 105 r.x (by simp)]
      · rw [hbf 106 r.n (by simp), hcf 106 r.n (by simp)]
      · rw [hbf 107 r.z (by simp), hcf 107 r.z (by simp)]
      · rw [hbf 108 r.v (by simp), hcf 108 r.v (by simp)]
      · rw [hbf 109 r.c (by simp), hcf 109 r.c (by simp)]
    · rw [List.getElem?_eq_none (by omega), List.getElem?_eq_none (by omega)]

/-- A bank of eight words is its list. -/
theorem bankOf_toList (v : Vector Word 8) (l : List Word) : bankOf (v.toList ++ l) = v := by
  ext i hi
  match i, hi with
  | 0, _ | 1, _ | 2, _ | 3, _ | 4, _ | 5, _ | 6, _ | 7, _ => simp [bankOf, List.getElem?_append]

theorem flagOfByte_flagByte (b : Bool) : flagOfByte (flagByte b) = some b := by
  cases b <;> rfl

/-- What `load` reads from a blob: every cell but SR and STOPPED. -/
theorem RegFile.ofBlob_blob (q r : RegFile) : q.ofBlob r.blob = some { r with sr := q.sr, stopped := q.stopped } := by
  have hm : ∀ m : BitVec 3, (m.zeroExtend 8 : Byte) ≤ 7 ∧ (m.zeroExtend 8 : Byte).extractLsb' 0 3 = m := by decide
  have ht := takeWords_flatMap r.blobWords r.blobStatus
  rw [r.blobWords_length] at ht
  have hd : bankOf r.blobWords = r.d := by
    unfold RegFile.blobWords
    rw [List.append_assoc]
    exact bankOf_toList _ _
  have ha : bankOf (r.blobWords.drop 8) = r.a := by
    unfold RegFile.blobWords
    rw [List.append_assoc, List.drop_append_of_le_length (by simp), List.drop_eq_nil_of_le (by simp), List.nil_append]
    exact bankOf_toList _ _
  have hg : ∀ j, r.blobWords.getD (16 + j) 0 = [r.pc, r.usp, r.ssp, r.vbr, r.sfc, r.dfc, r.fpcr, r.fpsr, r.fpiar].getD j 0 := by
    intro j
    unfold RegFile.blobWords
    rw [List.getD_eq_getElem?_getD, List.getElem?_append_right (by simp), List.getD_eq_getElem?_getD]
    congr 2
    simp
  unfold RegFile.ofBlob
  rw [r.blob_eq, ht]
  simp only [hd, ha]
  rw [hg 0, hg 1, hg 2, hg 3, hg 4, hg 5, hg 6, hg 7, hg 8]
  simp [RegFile.withStatusBytes, RegFile.blobStatus, flagOfByte_flagByte, (hm r.imask).2]
  have := (hm r.imask).1
  simpa using this

end Sys2Proof
end

