-- ==== Sys2Proof/Laws/Pass.lean ====
section
/-! SUPPORT. What the branches of a pass, an idle tick and the entry of the stopped loop do in an observing environment, said
once (spec 41). -/

namespace Sys2Proof.Machine

theorem endOfCycleBranch_observing (run : Runner) {s : State} (h : s.Observing) :
    endOfCycleBranch run s = .ok (s.sf.eoc && (s.answer (.onEndOfCycle false)).yes) s.endOfCycled := by
  unfold endOfCycleBranch State.endOfCycled
  cases he : s.sf.eoc
  · rfl
  · rw [if_pos rfl, if_pos rfl, envAsk_observing run _ (show (s.putFlag .eoc false).Observing from h)]
    rfl

/-- A callback's `SetFlag` sets the flag and nothing else. -/
theorem invoke_setFlag (n : Nat) (f : Flag) (s : State) : invoke (n + 1) (.setFlag f) s = .ok () (s.putFlag f true) := by
  show (Run.ok () (s.putFlag f true)).andThen _ = _
  have hk : (s.putFlag f true).acts.length ≤ s.acts.length := Nat.le_refl _
  rw [Run.andThen_ok]
  cases (s.putFlag f true).bound <;> unfold drive <;> rw [if_pos hk]

/-- The end-of-cycle branch where the callback sets the flag again: the flag stays set (spec 41 R102). -/
theorem endOfCycleBranch_raised (n : Nat) {s : State} (he : s.sf.eoc = true)
    (ha : (s.answer (.onEndOfCycle false)).acts = [raiseEOC]) :
    endOfCycleBranch (invoke (n + 1)) s = .ok (s.answer (.onEndOfCycle false)).yes (s.called (.onEndOfCycle false)) := by
  have hsf : ({ s.sf with eoc := true } : SpecialFlags) = s.sf := by rw [← he]
  have hans : (s.putFlag .eoc false).answer (.onEndOfCycle false) = s.answer (.onEndOfCycle false) := rfl
  have hctx : ∀ c, Ctx.refusesCall c (.setFlag .eoc) = none := fun _ => rfl
  unfold endOfCycleBranch envAsk envCall
  rw [if_pos he, hans, ha]
  simp only [performActs, performAct, makeCall, hctx, invoke_setFlag, Run.andThen_ok, Run.noAbort_ok]
  congr 1
  apply State.ext_fields <;> simp [State.withCtx, State.putFlag, SpecialFlags.put, State.called]
  exact hsf

theorem State.Observing.endOfCycled {s : State} (h : s.Observing) : s.endOfCycled.Observing := by
  unfold State.endOfCycled
  split
  · exact (h.called _).congr rfl
  · exact h

/-- The trace-fire branch in a state that can take the trace vector where it has to. -/
theorem traceFireBranch_fires (run : Runner) {s : State} (h : s.Observing)
    (hcan : s.sf.dotrace = true → s.sf.stop = false → s.CanTake 9) :
    ∃ t, traceFireBranch run s = .ok () t ∧ FiresTrace s t ∧ t.Observing := by
  unfold traceFireBranch traceFires FiresTrace
  cases hd : s.sf.dotrace
  · exact ⟨s, by simp, by simp, h⟩
  · cases hs : s.sf.stop
    · obtain ⟨t, ht, htk, hto, -⟩ := processException_takes run (hcan hd hs)
      exact ⟨t, by simpa [vecTrace] using ht, by simp [htk], hto⟩
    · exact ⟨s, by simp, by simp, h⟩

theorem traceArmBranch_eq (s : State) : traceArmBranch s = s.traceArmed := by
  unfold traceArmBranch traceArms State.traceArmed
  cases s.sf.trace <;> cases s.regs.t1 <;> rfl

theorem deferBranch_eq (s : State) : deferBranch s = s.deferred := by
  unfold deferBranch State.deferred
  cases h : s.sf.int
  · obtain ⟨regs, ⟨_, _, _, i, d, _, _⟩⟩ := s
    cases h
    simp
  · simp

theorem State.Observing.deferred {s : State} (h : s.Observing) : s.deferred.Observing :=
  h.congr rfl

theorem State.Observing.traceArmed {s : State} (h : s.Observing) : s.traceArmed.Observing := by
  unfold State.traceArmed
  split
  · exact h.congr rfl
  · exact h

/-- The state after the test of the service branch. -/
def State.latchAsked (s : State) : State :=
  if s.sf.doint then s.called .kernelStackOverflowed else s

theorem serviceDue_observing (run : Runner) {s : State} (h : s.Observing) :
    serviceDue run s = .ok s.serves s.latchAsked := by
  unfold serviceDue State.serves State.latchAsked
  cases s.sf.doint
  · rfl
  · simp [envAsk_observing run _ h]

/-- A service branch that is not due only asks for the latch. -/
theorem serves_latchAsked (idle : Bool) {s : State} (h : s.serves = false) : Serves idle s s.latchAsked := by
  unfold State.serves at h
  unfold Serves State.latchAsked State.serves
  cases hd : s.sf.doint <;> simp_all

/-- The body of the service branch, where it is due and can be carried out. -/
theorem serviceInterrupt_serves (run : Runner) (idle : Bool) {s : State} (h : s.Observing) (hs : s.serves = true)
    (hcan : s.CanServe) :
    ∃ t, serviceInterrupt run idle (s.called .kernelStackOverflowed) = .ok () t ∧ Serves idle s t ∧ t.Observing ∧
      t.cfg = s.cfg ∧ t.acts = s.acts := by
  have hd : s.sf.doint = true := by unfold State.serves at hs; simp_all
  have hk : (s.answer .kernelStackOverflowed).yes = false := by unfold State.serves at hs; simp_all
  have h1 := h.called .kernelStackOverflowed
  have h2 : s.levelSampled.Observing := (h1.called .currentInterruptLevel).congr rfl
  have hbody : serviceInterrupt run idle (s.called .kernelStackOverflowed) =
      match s.levelRead with
      | none => .ok () s.levelSampled
      | some level =>
        if 7 < level then .refused .badLevel
        else if s.regs.imask.toNat < level then
          (processInterrupt run level s.levelSampled).andThen fun _ s =>
            .ok () { s with regs := { s.regs with stopped := false }, sf := { s.sf with stop := s.sf.stop && !idle } }
        else .ok () s.levelSampled := by
    unfold serviceInterrupt
    rw [envCall_observing run _ h1]
    rfl
  rw [hbody]
  cases hl : s.levelRead with
  | none =>
    refine ⟨_, rfl, ⟨fun h => absurd hd (by simp [h]), fun _ h => absurd hk (by simp [h]), fun _ _ => rfl, ?_⟩, h2, by
      simp [State.levelSampled]⟩
    intro l v _ hl' _ _
    rw [hl] at hl'
    cases hl'
  | some level =>
    by_cases hm : s.regs.imask.toNat < level
    · obtain ⟨h7, v, hv, htake⟩ := hcan hs level hl hm
      obtain ⟨u, hpi, htk, huo⟩ := processInterrupt_takes run h7 h2 hv htake
      refine ⟨{ u with
          regs := { u.regs with imask := BitVec.ofNat 3 level, stopped := false }
          sf := { u.sf with int := true, stop := u.sf.stop && !idle } }, ?_, ?_, huo.congr rfl, ?_⟩
      · simp only [if_neg (show ¬ 7 < level by omega), if_pos hm, hpi, Run.andThen_ok]
      · refine ⟨fun h => absurd hd (by simp [h]), fun _ h => absurd hk (by simp [h]), fun _ h => absurd (h level hl) (by omega), ?_⟩
        intro l v' _ hl' _ hv'
        rw [hl] at hl'
        cases hl'
        have : v' = v := by omega
        subst this
        exact ⟨u, htk, rfl⟩
      · exact ⟨htk.keeps.2.2.1.trans (by simp [State.levelSampled]),
          htk.keeps.2.2.2.1.trans (by simp [State.levelSampled])⟩
    · refine ⟨s.levelSampled, ?_, ⟨fun h => absurd hd (by simp [h]), fun _ h => absurd hk (by simp [h]), fun _ _ => rfl, ?_⟩, h2, by
        simp [State.levelSampled]⟩
      · have : ¬ 7 < level := by have := s.regs.imask.isLt; omega
        simp only [if_neg this, if_neg hm]
      · intro l v _ hl' hm' _
        rw [hl] at hl'
        cases hl'
        exact absurd hm' hm

/-- The service branch and the defer branch, which under `chain` is left out where the service ran (spec 41 R106, R107, R111,
R115). -/
theorem interruptBranches_observing (run : Runner) (idle : Bool) {s : State} (h : s.Observing) (hcan : s.CanServe) :
    ∃ u, Serves idle s u ∧ u.Observing ∧ (u.cfg = s.cfg ∧ u.acts = s.acts) ∧
      interruptBranches run idle s = .ok () (if s.cfg.scEval = .chain ∧ s.serves = true then u else u.deferred) := by
  unfold interruptBranches
  rw [serviceDue_observing run h]
  simp only [Run.andThen_ok]
  cases hs : s.serves
  · refine ⟨s.latchAsked, serves_latchAsked idle hs, ?_, ?_, ?_⟩
    · unfold State.latchAsked; split
      · exact h.called _
      · exact h
    · unfold State.latchAsked; split <;> simp
    · simp [deferBranch_eq]
  · have hl : s.latchAsked = s.called .kernelStackOverflowed := by
      unfold State.latchAsked
      rw [if_pos (by unfold State.serves at hs; simp_all)]
    obtain ⟨t, ht, hse, hto, hcfg⟩ := serviceInterrupt_serves run idle h hs hcan
    refine ⟨t, hse, hto, hcfg, ?_⟩
    simp only [if_true, hl, ht, Run.andThen_ok, State.called_cfg]
    cases hsc : s.cfg.scEval <;> simp [deferBranch_eq]

theorem State.Observing.breakChecked {s : State} (h : s.Observing) : s.breakChecked.Observing :=
  h.called _

theorem breakCheck_breaks (run : Runner) {s : State} (h : s.Observing) :
    breakCheck run s = .ok s.breaks s.breakChecked :=
  breakCheck_observing run h

/-- `WakeSynthesis()` makes its calls and nothing else (spec 41 R110). -/
theorem wakeSynthesis_observing (run : Runner) {s : State} (h : s.Observing) :
    wakeSynthesis run s = .ok () (s.calledAll s.wakeCalls) := by
  unfold wakeSynthesis State.wakeCalls
  rw [envAsk_observing run _ h]
  simp only [Run.andThen_ok]
  cases (s.answer .isAsleep).yes
  · rfl
  · have e1 : (s.called .isAsleep).answer .buttonEventPending = s.answer .buttonEventPending :=
      State.answer_called_ne (by decide) s
    simp only [if_true]
    rw [envAsk_observing run _ (h.called _), e1]
    simp only [Run.andThen_ok]
    cases (s.answer .buttonEventPending).yes
    · have ef : (s.calledAll [.isAsleep, .buttonEventPending]).answer (.isActive .fuzz) = s.answer (.isActive .fuzz) :=
        State.answer_calledAll (by decide) s
      have ep : (s.calledAll [.isAsleep, .buttonEventPending, .isActive .fuzz]).answer (.isActive .playback) =
          s.answer (.isActive .playback) := State.answer_calledAll (by decide) s
      have em : (s.calledAll [.isAsleep, .buttonEventPending, .isActive .fuzz, .isActive .playback]).answer
          (.isActive .minimize) = s.answer (.isActive .minimize) := State.answer_calledAll (by decide) s
      simp only [State.calledAll_cons, State.calledAll_nil] at ef ep em
      simp (disch := (intros; repeat (first | exact h | apply State.Observing.called))) only
        [envAsk_observing, envTell_observing, Run.andThen_ok, ef, ep, em, if_neg Bool.false_ne_true,
        State.calledAll_cons, State.calledAll_nil]
    · rfl

theorem State.Observing.idled {s : State} (h : s.Observing) (before : List EnvCall) : (s.idled before).Observing :=
  (h.calledAll _).congr rfl

/-- One idle tick (spec 41 R109, R111). -/
theorem idleTick_observing (run : Runner) {s : State} (h : s.Observing) (hcan : (s.idled []).CanServe) :
    ∃ u, ChecksInterrupt (s.idled []) u ∧ u.Observing ∧ (u.cfg = s.cfg ∧ u.acts = s.acts) ∧
      idleTick run s = .ok (if u.breaks then .broke else if u.sf.stop then .again else .left) u.breakChecked := by
  obtain ⟨v, hv, hvo, hk, hb⟩ := interruptBranches_observing run true (h.idled []) hcan
  refine ⟨_, ⟨v, hv, rfl⟩, ?_, ?_, ?_⟩
  · split
    · exact hvo
    · exact hvo.deferred
  · have hk' : v.cfg = s.cfg ∧ v.acts = s.acts := by simpa [State.idled] using hk
    split <;> exact hk'
  · have hq : ((((s.called .delay).called (.onCycle true)).called (.onCycleSlowly true)).addCycles s.cfg.idleTick) =
        s.idled [] := rfl
    unfold idleTick
    rw [envTell_observing run _ h]
    simp only [Run.andThen_ok]
    rw [envTell_observing run _ (h.called _)]
    simp only [Run.andThen_ok]
    rw [envTell_observing run _ ((h.called _).called _)]
    simp only [Run.andThen_ok, State.called_cfg, hq]
    rw [hb]
    simp only [Run.andThen_ok]
    rw [breakCheck_breaks run (by
      split
      · exact hvo
      · exact hvo.deferred)]
    rfl

/-- The stopped loop entered: the wake calls, then the first tick (spec 41 R109, R110). -/
theorem enterStoppedLoop_observing (run : Runner) {s : State} (h : s.Observing) (hcan : (s.idled s.wakeCalls).CanServe) :
    ∃ u, ChecksInterrupt (s.idled s.wakeCalls) u ∧ u.Observing ∧ (u.cfg = s.cfg ∧ u.acts = s.acts) ∧
      enterStoppedLoop run s = .ok (if u.breaks then .broke else if u.sf.stop then .again else .left) u.breakChecked := by
  have hq : (s.calledAll s.wakeCalls).idled [] = s.idled s.wakeCalls := by
    unfold State.idled
    simp only [List.nil_append, State.calledAll_append, State.calledAll_cyc, State.calledAll_cfg]
  obtain ⟨u, hu, huo, hk, ht⟩ := idleTick_observing run (h.calledAll s.wakeCalls) (by rw [hq]; exact hcan)
  refine ⟨u, by rw [← hq]; exact hu, huo, by simpa using hk, ?_⟩
  unfold enterStoppedLoop
  rw [wakeSynthesis_observing run h]
  exact ht

/-- How a pass's tick goes on (spec 41 R104, R109). -/
theorem afterTick_ends (run : Runner) {inn : IdleIn} (hinn : inn ≠ .port) {u : State} {p : Phase} {outer : List Phase}
    (ha : u.acts = p :: outer) (h : u.Observing) (s : State) :
    TickEnds inn outer u
      ((afterTick run inn (if u.breaks then .broke else if u.sf.stop then .again else .left) u.breakChecked).outcome s) := by
  have hac : u.breakChecked.acts = p :: outer := ha
  have hend : ∀ (b : Bool) (w : State), w.acts = p :: outer → endPass inn b w = State.passEnded inn outer b w := by
    intro b w hw
    cases inn with
    | port => exact absurd rfl hinn
    | loop => cases b <;> simp [endPass, State.passEnded, State.pop, State.setTop, hw]
    | special => simp [endPass, State.passEnded, State.pop, State.returns, hw]
  refine ⟨?_, ?_, ?_, ?_⟩
  · intro hb
    rw [hb]
    have : afterTick run inn .broke u.breakChecked = .ok () (endPass inn true (u.breakChecked.putFlag .brk false)) := by
      cases inn with
      | port => exact absurd rfl hinn
      | loop | special => rfl
    rw [if_pos rfl, this, hend _ (u.breakChecked.putFlag .brk false) hac]
    rfl
  · intro hb hs
    rw [hb, hs]
    have : afterTick run inn .again u.breakChecked = .ok () (u.breakChecked.setTop (.idle inn)) := by
      cases inn with
      | port => exact absurd rfl hinn
      | loop | special => rfl
    rw [if_neg Bool.false_ne_true, if_pos rfl, this]
    simp [State.setTop, hac]
  all_goals
    intro hb hs hsc
    rw [hb, hs, if_neg Bool.false_ne_true, if_neg Bool.false_ne_true]
    have hleft : afterTick run inn .left u.breakChecked =
        (afterStopBranches run u.breakChecked).andThen fun _ s => finishPass run inn s := by
      cases inn with
      | port => exact absurd rfl hinn
      | loop | special => rfl
    rw [hleft]
    unfold afterStopBranches
    rw [show u.breakChecked.cfg.scEval = _ from hsc]
  · intro hcan
    simp only [traceArmBranch_eq]
    obtain ⟨w, hw, hwo, hcfg, hib⟩ := interruptBranches_observing run false h.breakChecked.traceArmed hcan
    refine ⟨w, hw, ?_⟩
    have hsc' : ¬ (u.breakChecked.traceArmed.cfg.scEval = .chain ∧ u.breakChecked.traceArmed.serves = true) := by
      have : u.breakChecked.traceArmed.cfg = u.cfg := by
        unfold State.traceArmed
        split <;> rfl
      rw [this, hsc]
      simp
    rw [if_neg hsc'] at hib
    rw [hib]
    simp only [Run.andThen_ok, finishPass]
    rw [breakCheck_breaks run hwo.deferred]
    simp only [Run.andThen_ok, Run.outcome_ok]
    have hta : u.breakChecked.traceArmed.acts = u.acts := by
      unfold State.traceArmed
      split <;> rfl
    rw [hend _ _ (show w.deferred.breakChecked.acts = p :: outer from hcfg.2.trans (hta.trans ha))]
  · simp only [Run.andThen_ok, finishPass]
    rw [breakCheck_breaks run h.breakChecked]
    simp only [Run.andThen_ok, Run.outcome_ok]
    rw [hend _ u.breakChecked.breakChecked hac]

/-! ## The activations a pass does not look at -/

/-- Other activations in progress. -/
def State.withActs (s : State) (p : List Phase) : State :=
  { s with acts := p }

theorem Takes.withActs {v : Nat} {s t : State} (h : Takes v s t) (p : List Phase) :
    Takes v (s.withActs p) (t.withActs p) := by
  have hr := h.relabel s.ctx s.cyc p
  have ht : t.relabel s.ctx s.cyc p = t.withActs p := by
    obtain ⟨hc, hk, -⟩ := h.keeps
    rw [← hc, ← hk]
    rfl
  rwa [ht] at hr

theorem FiresTrace.withActs {s t : State} (h : FiresTrace s t) (p : List Phase) :
    FiresTrace (s.withActs p) (t.withActs p) :=
  ⟨fun hd => (h.1 hd).withActs p, fun hd => congrArg (State.withActs · p) (h.2 hd)⟩

theorem Serves.withActs {idle : Bool} {s t : State} (h : Serves idle s t) (p : List Phase) :
    Serves idle (s.withActs p) (t.withActs p) := by
  refine ⟨fun hd => congrArg (State.withActs · p) (h.1 hd), fun hd hk => congrArg (State.withActs · p) (h.2.1 hd hk),
    fun hs hl => congrArg (State.withActs · p) (h.2.2.1 hs hl), fun l v hs hl hm hv => ?_⟩
  obtain ⟨u, hu, ht⟩ := h.2.2.2 l v hs hl hm hv
  exact ⟨u.withActs p, hu.withActs p, congrArg (State.withActs · p) ht⟩

theorem State.canServe_withActs {s : State} {p : List Phase} : (s.withActs p).CanServe ↔ s.CanServe :=
  Iff.rfl

theorem ChecksInterrupt.withActs {s t : State} (h : ChecksInterrupt s t) (p : List Phase) :
    ChecksInterrupt (s.withActs p) (t.withActs p) := by
  obtain ⟨u, hu, ht⟩ := h
  refine ⟨u.withActs p, hu.withActs p, ?_⟩
  rw [ht]
  change State.withActs _ p = if s.cfg.scEval = .chain ∧ s.serves = true then _ else _
  split <;> rfl

theorem TickEnds.withActs {inn : IdleIn} {outer : List Phase} {s : State} {o : Host.Outcome State Fault Refusal}
    (h : TickEnds inn outer s o) (p : List Phase) : TickEnds inn outer (s.withActs p) o := by
  have hend : ∀ b (w : State), State.passEnded inn outer b (w.withActs p) = State.passEnded inn outer b w := by
    intro b w
    cases inn <;> rfl
  refine ⟨fun hb => (h.1 hb).trans ?_, fun hb hs => h.2.1 hb hs, fun hb hs hsc hcan => ?_, fun hb hs hsc => (h.2.2.2 hb hs hsc).trans ?_⟩
  · cases inn <;> rfl
  · have hta : (s.withActs p).breakChecked.traceArmed = s.breakChecked.traceArmed.withActs p := by
      unfold State.traceArmed
      change (if s.sf.trace = true ∧ s.regs.t1 = true then _ else _) = State.withActs (if s.sf.trace = true ∧ s.regs.t1 = true then _ else _) p
      split <;> rfl
    rw [hta] at hcan ⊢
    obtain ⟨u, hu, ho⟩ := h.2.2.1 hb hs hsc hcan
    exact ⟨u.withActs p, hu.withActs p, ho.trans (by cases inn <;> rfl)⟩
  · cases inn <;> rfl

/-- The end of a pass that `ExecuteSpecial()` made by itself: the break check, its result returned. -/
theorem finishPass_special (run : Runner) {s t : State} {p : Phase} {outer : List Phase} (ha : t.acts = p :: outer)
    (h : t.Observing) :
    (finishPass run .special t).outcome s =
      .next { (t.withActs outer).breakChecked with ret := some (.bool t.breaks) } := by
  unfold finishPass
  rw [breakCheck_breaks run h]
  simp only [Run.andThen_ok, Run.outcome_ok, endPass, State.pop, State.returns, show t.breakChecked.acts = _ from ha]
  rfl

end Sys2Proof.Machine
end

