-- ==== Sys2Proof/Laws/PerInstr.lean ====
section
/-! SUPPORT. Statements made for every instruction, one lemma per constructor. -/

/-- An opcode-word instruction encodes to one 16-bit word, an operation to none (spec 30 R62, R74). -/
def Sys2Proof.Laws.EncodesOneWordOrNone.Statement (i : Sys2Proof.Instr) : Prop :=
  (Sys2Proof.encode i).length = if i.isOpcodeWord = true then 2 else 0

namespace Sys2Proof.Laws.EncodesOneWordOrNone

theorem dispatch (op : Half) : Statement (.dispatch op) := rfl
theorem illegalLineA (rest : BitVec 12) : Statement (.illegalLineA rest) := rfl
theorem illegalLineF (rest : BitVec 12) : Statement (.illegalLineF rest) := rfl
theorem illegalOther (line : BitVec 4) (rest : BitVec 12) : Statement (.illegalOther line rest) := rfl
theorem nop : Statement .nop := rfl
theorem stop : Statement .stop := rfl
theorem rte : Statement .rte := rfl
theorem rts : Statement .rts := rfl
theorem trapv : Statement .trapv := rfl
theorem trap (n : BitVec 4) : Statement (.trap n) := rfl
theorem link (an : BitVec 3) : Statement (.link an) := rfl
theorem jsr (eaMode : BitVec 3) (eaReg : BitVec 3) : Statement (.jsr eaMode eaReg) := rfl
theorem illegal : Statement .illegal := rfl
theorem moveWAbsLD0 : Statement .moveWAbsLD0 := rfl
theorem reset (hardwareReset : Bool) : Statement (.reset hardwareReset) := rfl
theorem execute : Statement .execute := rfl
theorem executeSpecial : Statement .executeSpecial := rfl
theorem executeStoppedLoop : Statement .executeStoppedLoop := rfl
theorem breakCheck : Statement .breakCheck := rfl
theorem setFlag (f : Flag) : Statement (.setFlag f) := rfl
theorem clearFlag (f : Flag) : Statement (.clearFlag f) := rfl
theorem enterStop : Statement .enterStop := rfl
theorem processException (vector : Nat) : Statement (.processException vector) := rfl
theorem processInterrupt (level : Nat) : Statement (.processInterrupt level) := rfl
theorem processIllegalInstruction (opcode : Half) : Statement (.processIllegalInstruction opcode) := rfl
theorem busError (addr : Word) (size : AccessSize) (dir : Dir) : Statement (.busError addr size dir) := rfl
theorem addressError (addr : Word) (size : AccessSize) (dir : Dir) : Statement (.addressError addr size dir) := rfl
theorem setPC (addr : Word) : Statement (.setPC addr) := rfl
theorem packSR : Statement .packSR := rfl
theorem setSR (value : Half) : Statement (.setSR value) := rfl
theorem getSR : Statement .getSR := rfl
theorem getRegister (id : Nat) : Statement (.getRegister id) := rfl
theorem setRegister (id : Nat) (value : Word) : Statement (.setRegister id value) := rfl
theorem getRegisters : Statement .getRegisters := rfl
theorem setRegisters (regs : RegFile) : Statement (.setRegisters regs) := rfl
theorem save (file : FileId) : Statement (.save file) := rfl
theorem load (file : FileId) : Statement (.load file) := rfl
theorem installHook (kind : HookKind) (key : Nat) (cb : Callback) : Statement (.installHook kind key cb) := rfl
theorem removeHook (kind : HookKind) (key : Nat) (cb : Callback) : Statement (.removeHook kind key cb) := rfl
theorem eventJSR (ev : EventRecord) : Statement (.eventJSR ev) := rfl
theorem eventJSRInd (ev : EventRecord) : Statement (.eventJSRInd ev) := rfl
theorem eventLINK (ev : EventRecord) : Statement (.eventLINK ev) := rfl
theorem eventRTE (ev : EventRecord) : Statement (.eventRTE ev) := rfl
theorem eventRTS (ev : EventRecord) : Statement (.eventRTS ev) := rfl
theorem eventNewSP (ev : EventRecord) : Statement (.eventNewSP ev) := rfl
theorem cycleCount : Statement .cycleCount := rfl

end Sys2Proof.Laws.EncodesOneWordOrNone
end

