-- ==== Sys2Proof/Tests/Slice0.lean ====
section
/-! SUPPORT. The model's own tests. Expected results are the worked vectors TV<n> and programs PR<n> of spec 95 and words
written out from the table of spec 30 R77; the witnesses at the end meet the hypotheses of the obligations. -/

namespace Sys2Proof.Tests

open Sys2Proof.Machine

/-! ## Helpers -/

/-- RAM at 0x00000000..0x000FFFFF and nothing elsewhere (spec 95 section 2). -/
def ram : MemPolicy :=
  { mapped := [{ base := 0, size := 0x100000 }], checkOdd := true, rejections := []
    fullOdd := true, fullUnmapped := true }

/-- The default machine of spec 95 section 2 in supervisor mode, A[7] = 0x1000, PC = 0x10000. -/
def base : State :=
  { State.reset with
    cfg := { Config.initial with policy := ram }
    regs := { RegFile.reset with a := RegFile.reset.a.set 7 0x1000, pc := 0x10000, usp := 0x2000 } }

/-- The same in user mode with every status field 0, A[7] = 0x2000, SSP = 0x1000. -/
def user : State :=
  { base with
    regs := { base.regs with s := false, imask := 0, sr := 0, a := RegFile.reset.a.set 7 0x2000, usp := 0, ssp := 0x1000 } }

/-- Bytes placed in memory. -/
def with_ (s : State) (a : Word) (l : List Byte) : State := storeBytes l a s

/-- The bytes from an address on. -/
def bytesAt (s : State) (a : Word) : Nat → List Byte
  | 0 => []
  | n + 1 => s.byte a :: bytesAt s (a + 1) n

/-- The outcome is a next state of which a test holds. -/
def after (o : Host.Outcome State Fault Refusal) (p : State → Bool) : Bool :=
  match o with
  | .next t => p t
  | .fault _ => false
  | .refused _ => false

/-- An answer that does something. -/
def doing (acts : List Act) (yes : Bool) : Answer := { Answer.quiet with acts := acts, yes := yes }

/-! ## WellFormed refuses each ill-formed term, and takes the last value of each range -/

theorem test_wellFormed_line_A : (Instr.illegalOther 0xA 0x123).wellFormed = false := by decide
theorem test_wellFormed_line_F : (Instr.illegalOther 0xF 0x001).wellFormed = false := by decide
theorem test_wellFormed_named_word : (Instr.illegalOther 0x4 0xE71).wellFormed = false := by decide
theorem test_wellFormed_illegalOther : (Instr.illegalOther 0x9 0xFFF).wellFormed = true := by decide
theorem test_wellFormed_vector :
    (Instr.processException 256).wellFormed = false ∧ (Instr.processException 255).wellFormed = true := by decide
theorem test_wellFormed_level :
    (Instr.processInterrupt 8).wellFormed = false ∧ (Instr.processInterrupt 7).wellFormed = true := by decide
theorem test_wellFormed_getRegister :
    (Instr.getRegister 26).wellFormed = false ∧ (Instr.getRegister 25).wellFormed = true := by decide
theorem test_wellFormed_setRegister :
    (Instr.setRegister 26 0).wellFormed = false ∧ (Instr.setRegister 25 0).wellFormed = true := by decide
theorem test_wellFormed_installHook :
    (Instr.installHook .exception 256 1).wellFormed = false ∧ (Instr.installHook .exception 255 1).wellFormed = true ∧
      (Instr.installHook .jsr 256 1).wellFormed = true := by decide
theorem test_wellFormed_removeHook :
    (Instr.removeHook .exception 256 1).wellFormed = false ∧ (Instr.removeHook .exception 255 1).wellFormed = true := by
  decide

/-! ## Decoding, every opcode-word constructor, the words written out bit by bit from spec 30 R77 and R61 -/

theorem test_decode_nop : decodeWord 0b0100111001110001 = .nop := by decide
theorem test_decode_stop : decodeWord 0b0100111001110010 = .stop := by decide
theorem test_decode_rte : decodeWord 0b0100111001110011 = .rte := by decide
theorem test_decode_rts : decodeWord 0b0100111001110101 = .rts := by decide
theorem test_decode_trapv : decodeWord 0b0100111001110110 = .trapv := by decide
theorem test_decode_trap_0 : decodeWord 0b0100111001000000 = .trap 0 := by decide
theorem test_decode_trap_15 : decodeWord 0b0100111001001111 = .trap 15 := by decide
theorem test_decode_link_0 : decodeWord 0b0100111001010000 = .link 0 := by decide
theorem test_decode_link_7 : decodeWord 0b0100111001010111 = .link 7 := by decide
theorem test_decode_jsr_indirect : decodeWord 0b0100111010010001 = .jsr 2 1 := by decide
theorem test_decode_jsr_absolute : decodeWord 0b0100111010111001 = .jsr 7 1 := by decide
theorem test_decode_illegal : decodeWord 0b0100101011111100 = .illegal := by decide
theorem test_decode_moveW : decodeWord 0b0011000000111001 = .moveWAbsLD0 := by decide
theorem test_decode_line_A : decodeWord 0b1010000100100011 = .illegalLineA 0x123 := by decide
theorem test_decode_line_F : decodeWord 0b1111000000000001 = .illegalLineF 0x001 := by decide
theorem test_decode_zero : decodeWord 0b0000000000000000 = .illegalOther 0 0 := by decide
/-- 0x4E74, between RTE and RTS, has no row of its own. -/
theorem test_decode_between_rows : decodeWord 0x4E74 = .illegalOther 0x4 0xE74 := by decide
/-- 0x4E58, past LINK A7, has no row of its own. -/
theorem test_decode_past_link : decodeWord 0x4E58 = .illegalOther 0x4 0xE58 := by decide
theorem test_decodeTableWord_stop : decodeTableWord 32 0x20004E72 = some .stop := by decide
theorem test_decodeTableWord_operation : decodeTableWord 0 0 = none := by decide

/-! ## Status word and mode switch (TV1 to TV15) -/

theorem test_TV1_pack : ({ base.regs with s := true, imask := 7 } : RegFile).pack = 0x2700 := by decide
theorem test_TV3_pack :
    ({ base.regs with t1 := true, s := true, imask := 3, x := true, c := true } : RegFile).pack = 0xA311 := by decide
theorem test_TV4_pack : ({ user.regs with t0 := true, m := true } : RegFile).pack = 0x5000 := by decide
theorem test_TV6_pack_unpack : (user.regs.unpack 0x0800).pack = 0 := by decide
theorem test_TV9_unpack : (user.regs.unpack 0x0500) = { user.regs with imask := 5 } := by decide

/-- TV11: supervisor to user. -/
theorem test_TV11_setSR :
    after (exec (.setSR 0x0004) { base with regs := { base.regs with a := base.regs.a.set 7 0x0FFA } }) (fun t =>
      !t.regs.s && t.regs.ssp == 0x0FFA && t.regs.a[7] == 0x2000 && t.regs.usp == 0x2000 && t.regs.z &&
        t.regs.imask == 0 && t.regs.sr == 0x0004 && t.sf == { SpecialFlags.none with int := true }) = true := by decide
/-- TV12: user to supervisor. -/
theorem test_TV12_setSR :
    after (exec (.setSR 0x2000) user) (fun t =>
      t.regs.s && t.regs.usp == 0x2000 && t.regs.a[7] == 0x1000 && t.regs.sr == 0x2000 &&
        t.sf == { SpecialFlags.none with int := true }) = true := by decide
/-- TV14: TRACE cleared, DOTRACE kept. -/
theorem test_TV14_setSR :
    after (exec (.setSR 0x2700) { base with sf := { SpecialFlags.none with trace := true, dotrace := true } }) (fun t =>
      !t.regs.t1 && t.sf == { SpecialFlags.none with dotrace := true, int := true }) = true := by decide

/-! ## Exceptions and interrupts (TV16 to TV26) -/

theorem test_TV16_vector : illegalVector 0xA000 = 10 ∧ illegalVector 0xAFFF = 10 := by decide
theorem test_TV17_vector : illegalVector 0xF000 = 11 ∧ illegalVector 0xFFFF = 11 := by decide
theorem test_TV18_vector :
    illegalVector 0x0000 = 4 ∧ illegalVector 0x9FFF = 4 ∧ illegalVector 0xB000 = 4 ∧ illegalVector 0xE123 = 4 := by decide

/-- TV20: short frame from user mode. -/
theorem test_TV20_short_frame :
    after (exec (.processException 10)
      (with_ { user with regs := { user.regs with pc := 0x10002, z := true } } 0x28 [0x00, 0x02, 0x00, 0x00])) (fun t =>
        t.regs.sr == 0x0004 && t.regs.usp == 0x2000 && t.regs.a[7] == 0x0FFA && t.regs.s && t.regs.pc == 0x20000 &&
          bytesAt t 0x0FFA 6 == [0x00, 0x04, 0x00, 0x01, 0x00, 0x02] && t.regs.pack == 0x2004) = true := by decide
/-- TV21: short frame already in supervisor mode, trace state cleared. -/
theorem test_TV21_short_frame :
    after (exec (.processException 9)
      (with_ { base with
        regs := { base.regs with t1 := true, imask := 3, pc := 0x10004 }
        sf := { SpecialFlags.none with dotrace := true } } 0x24 [0x00, 0x02, 0x00, 0x00])) (fun t =>
        t.regs.sr == 0xA300 && t.regs.usp == 0x2000 && bytesAt t 0x0FFA 6 == [0xA3, 0x00, 0x00, 0x01, 0x00, 0x04] &&
          t.regs.pc == 0x20000 && !t.regs.t1 && t.sf == SpecialFlags.none && t.regs.imask == 3) = true := by decide
/-- TV24 (and TV22): BusError records the access and pushes the long frame, its placeholders zero. -/
theorem test_TV24_bus_error :
    after (exec (.busError 0x00FF0000 .two .read)
      (with_ { base with regs := { base.regs with pc := 0x10006 } } 0x08 [0x00, 0x05, 0x00, 0x00])) (fun t =>
        t.frec == some { addr := 0x00FF0000, size := .two, dir := .read } && t.regs.a[7] == 0x0FF2 &&
          bytesAt t 0x0FF2 14 == [0, 0, 0, 0, 0, 0, 0, 0, 0x27, 0x00, 0x00, 0x01, 0x00, 0x06] &&
          t.regs.pc == 0x50000) = true := by decide
/-- TV22, the last sentence: vector 3 reads its handler from 0x0C. -/
theorem test_TV22_address_error :
    after (exec (.addressError 0x1001 .two .read) (with_ base 0x0C [0x00, 0x05, 0x00, 0x00])) (fun t =>
      t.regs.pc == 0x50000 && t.regs.a[7] == 0x0FF2) = true := by decide
/-- TV23: a hook handles the vector; the second hook is called too. -/
theorem test_TV23_hooked :
    after (exec (.processException 10)
      { user with
        regs := { user.regs with pc := 0x10002, z := true }
        hooks := [(.exception 10, 1), (.exception 10, 2)]
        answers := [(.hook 1 (.exception 10) (.vector 10), doing [] true)] }) (fun t =>
          t.regs.sr == 0x0004 && !t.regs.s && t.regs.a[7] == 0x2000 && t.regs.pc == 0x10002 && t.mem == user.mem &&
            t.calls == [.hook 2 (.exception 10) (.vector 10), .hook 1 (.exception 10) (.vector 10)]) = true := by decide
/-- TV25: an interrupt. -/
theorem test_TV25_interrupt :
    after (exec (.processInterrupt 4)
      (with_ { base with regs := { base.regs with imask := 2, pc := 0x10008 } } 0x70 [0x00, 0x03, 0x00, 0x00])) (fun t =>
        bytesAt t 0x0FFA 6 == [0x22, 0x00, 0x00, 0x01, 0x00, 0x08] && t.regs.pc == 0x30000 && t.regs.imask == 4 &&
          t.sf.int && t.regs.pack == 0x2400) = true := by decide

/-! ## One pass (TV26 to TV39) -/

/-- A pass by itself, from special flags, a level and a mask. -/
def passOf (f : SpecialFlags) (mask : BitVec 3) (answers : List (EnvCall × Answer)) : State :=
  { base with sf := f, regs := { base.regs with imask := mask }, answers := answers }

/-- TV26: level 4 above mask 3 is served. -/
theorem test_TV26_served :
    after (exec .executeSpecial (passOf { SpecialFlags.none with doint := true } 3
      [(.currentInterruptLevel, { Answer.quiet with level := some 4 })])) (fun t =>
        t.regs.imask == 4 && t.sf == { SpecialFlags.none with doint := true } && t.regs.a[7] == 0x0FFA) = true := by decide
/-- TV26: level 3 at mask 3 is not. -/
theorem test_TV26_masked :
    after (exec .executeSpecial (passOf { SpecialFlags.none with doint := true } 3
      [(.currentInterruptLevel, { Answer.quiet with level := some 3 })])) (fun t =>
        t.regs.imask == 3 && t.sf == SpecialFlags.none && t.regs.a[7] == 0x1000) = true := by decide
/-- TV31: tracing armed. -/
theorem test_TV31_arm :
    after (exec .executeSpecial { base with
      sf := { SpecialFlags.none with trace := true }, regs := { base.regs with t1 := true, pc := 0x1002 } }) (fun t =>
        t.lta == some 0x1002 && t.sf == { SpecialFlags.none with dotrace := true } &&
          t.ret == some (.bool false)) = true := by decide
/-- TV35: INT and DOINT, no level. -/
theorem test_TV35_defer :
    after (exec .executeSpecial (passOf { SpecialFlags.none with int := true, doint := true } 0 [])) (fun t =>
      t.sf == { SpecialFlags.none with doint := true } && t.ret == some (.bool false)) = true := by decide
/-- TV38: trace held back by STOP, one idle tick, its break check ends the pass and clears BRK. -/
theorem test_TV38_stop_break :
    after (exec .executeSpecial (passOf { SpecialFlags.none with dotrace := true, stop := true, brk := true } 7 []))
      (fun t => t.sf == { SpecialFlags.none with dotrace := true, stop := true } && t.cyc == 1 &&
        t.ret == some (.bool true) && t.acts == []) = true := by decide
/-- TV39: trace, then the interrupt, in one pass. -/
theorem test_TV39_trace_and_interrupt :
    after (exec .executeSpecial (with_ (with_ { base with
      sf := { SpecialFlags.none with dotrace := true, doint := true }
      regs := { base.regs with t1 := true, imask := 0, pc := 0x10004 }
      answers := [(.currentInterruptLevel, { Answer.quiet with level := some 2 })] }
      0x24 [0x00, 0x02, 0x00, 0x00]) 0x68 [0x00, 0x03, 0x00, 0x00])) (fun t =>
        bytesAt t 0x0FF4 12 == [0x20, 0x00, 0x00, 0x02, 0x00, 0x00, 0xA0, 0x00, 0x00, 0x01, 0x00, 0x04] &&
          t.regs.a[7] == 0x0FF4 && t.regs.pc == 0x30000 && !t.regs.t1 && t.regs.imask == 2 &&
          t.sf == { SpecialFlags.none with doint := true }) = true := by decide
/-- TV39 under `chain`: the trace branch alone. -/
theorem test_TV39_chain :
    after (exec .executeSpecial { base with
      cfg := { base.cfg with scEval := .chain }
      sf := { SpecialFlags.none with dotrace := true, doint := true }
      answers := [(.currentInterruptLevel, { Answer.quiet with level := some 2 })] }) (fun t =>
        t.regs.a[7] == 0x0FFA && t.regs.imask == 7 && t.sf == { SpecialFlags.none with doint := true }) = true := by decide

/-! ## SetPC, hooks, reset, persistence, memory (TV40 to TV48) -/

/-- TV40: hardware reset. -/
theorem test_TV40_reset :
    after (exec (.reset true) (with_ { user with
      sf := { SpecialFlags.none with stop := true, trace := true, brk := true }
      cyc := 777
      regs := { user.regs with d := user.regs.d.set 3 0x12345678, vbr := 0x4000 } }
      0x10000 [0x00, 0x00, 0x30, 0x00, 0x00, 0x01, 0x01, 0x00])) (fun t =>
        t.regs.a[7] == 0x3000 && t.regs.pc == 0x10100 && t.regs.s && t.regs.imask == 7 && t.regs.sr == 0x2700 &&
          t.regs.vbr == 0 && t.sf == SpecialFlags.none && t.cyc == 0 && t.regs.d[3] == 0x12345678) = true := by decide
/-- TV42: hooks in order, then the validator; the odd address installed. -/
theorem test_TV42_setPC :
    after (exec (.setPC 0x20001) { base with hooks := [(.newPC, 1), (.newPC, 2)] }) (fun t =>
      t.regs.pc == 0x20001 && t.calls == [.checkNewPC 0x20001, .hook 2 .newPC (.address 0x20001),
        .hook 1 .newPC (.address 0x20001)]) = true := by decide
/-- TV43: the first match is removed. -/
theorem test_TV43_removeHook :
    after (exec (.removeHook .jsr 0 1) { base with hooks := [(.jsr, 1), (.jsr, 2), (.jsr, 1)] }) (fun t =>
      t.hookList .jsr == [2, 1]) = true := by decide
/-- TV45: the OR of the replies. -/
theorem test_TV45_eventRTS :
    after (exec (.eventRTS 9) { base with
      hooks := [(.rts, 1), (.rts, 2)], answers := [(.hook 1 .rts (.event 9), doing [] true)] }) (fun t =>
        t.ret == some (.bool true) && t.calls == [.hook 2 .rts (.event 9), .hook 1 .rts (.event 9)]) = true := by decide

/-- The register file of TV46. -/
def tv46 : RegFile :=
  { base.regs with
    d := #v[0xD0000000, 0xD0000001, 0xD0000002, 0xD0000003, 0xD0000004, 0xD0000005, 0xD0000006, 0xD0000007]
    a := #v[0xA0000000, 0xA0000001, 0xA0000002, 0xA0000003, 0xA0000004, 0xA0000005, 0xA0000006, 0x00001000]
    sfc := 1
    dfc := 5
    x := true
    z := true }

/-- TV46: the blob's control registers and status bytes, and SR packed. -/
theorem test_TV46_save :
    after (exec (.save 3) { base with regs := tv46 }) (fun t =>
      t.regs.sr == 0x2714 && (t.file 3).map (fun b => b.drop 60) == some
        [0x00, 0x00, 0x10, 0x00, 0x00, 0x01, 0x00, 0x00, 0x00, 0x00, 0x20, 0x00, 0x00, 0x00, 0x00, 0x00,
         0x00, 0x00, 0x00, 0x00, 0x00, 0x00, 0x00, 0x01, 0x00, 0x00, 0x00, 0x05, 0x00, 0x00, 0x00, 0x00,
         0x00, 0x00, 0x00, 0x00, 0x00, 0x00, 0x00, 0x00, 0x00, 0x00, 0x01, 0x00, 0x07, 0x01, 0x00, 0x01,
         0x00, 0x00]) = true := by decide
/-- TV46: both forms of the status word mutated between the save and the load. -/
theorem test_TV46_load :
    after (exec (.load 3) { base with
      files := [(3, tv46.blob)]
      regs := { tv46 with sr := 0xFFFF, z := false, imask := 0, s := false, d := tv46.d.set 0 0 } }) (fun t =>
        t.regs == { tv46 with sr := 0x2714 } && t.calls == [.checkNewPC 0x10000]) = true := by decide
/-- TV47: the byte order. -/
theorem test_TV47_big_endian :
    (base.setWord 0x0FFC 0x00010002).half 0x0FFC = 0x0001 ∧ (base.setWord 0x0FFC 0x00010002).half 0x0FFE = 0x0002 ∧
      bytesAt (base.setWord 0x0FFC 0x00010002) 0x0FFC 4 = [0x00, 0x01, 0x00, 0x02] := by decide
/-- TV48: an odd address, an unmapped address. -/
theorem test_TV48_policy :
    ram.verdict 0x1001 .two .read = some .address ∧ ram.verdict 0x00FF0000 .two .read = some .bus := by decide

/-! ## Registers and the remaining operations -/

theorem test_getRegister_SR :
    after (exec (.getRegister 17) { base with regs := { base.regs with sr := 0 } }) (fun t =>
      t.ret == some (.word 0x2700) && t.regs.sr == 0x2700) = true := by decide
theorem test_getRegister_A6 :
    after (exec (.getRegister 14) { base with regs := { base.regs with a := base.regs.a.set 6 77 } }) (fun t =>
      t.ret == some (.word 77)) = true := by decide
theorem test_setRegister_USP : after (exec (.setRegister 18 5) base) (fun t => t.regs.usp == 5) = true := by decide
/-- The packed word is the authority; the field T1 of the record is not (43 R145). -/
theorem test_setRegisters_word_wins :
    after (exec (.setRegisters { user.regs with t1 := true, sr := 0x2F04 }) user) (fun t =>
      !t.regs.t1 && t.regs.s && t.regs.z && t.regs.sr == 0x2704 && t.regs.a[7] == 0x2000) = true := by decide
theorem test_cycleCount : after (exec .cycleCount { base with cyc := 9 }) (fun t => t.ret == some (.word 9)) = true := by
  decide
theorem test_clearFlag :
    after (exec (.clearFlag .brk) { base with sf := { SpecialFlags.none with brk := true, eoc := true } }) (fun t =>
      t.sf == { SpecialFlags.none with eoc := true }) = true := by decide
theorem test_execute_refused_while_running :
    (match exec .execute { base with acts := [.fetch] } with | .refused r => r == .reentry | _ => false) = true := by decide

/-! ## Opcode words, one step each (PR1, PR3 to PR6, and the family's RTS, LINK, JSR) -/

/-- The user-mode start of PR1 with TRAP #1 at PC. -/
def pr1 : State :=
  with_ (with_ { user with regs := { user.regs with x := true, z := true }, acts := [.fetch] } 0x10000 [0x4E, 0x41])
    0x84 [0x00, 0x02, 0x00, 0x00]

/-- PR1, iteration 1. -/
theorem test_PR1_trap :
    after (step pr1) (fun t => t.regs.pc == 0x20000 && t.regs.usp == 0x2000 && t.cyc == 4 && t.iter == 1 &&
      bytesAt t 0x0FFA 6 == [0x00, 0x14, 0x00, 0x01, 0x00, 0x02]) = true := by decide
/-- PR1, iteration 2. -/
theorem test_PR1_rte :
    after (exec .rte (with_ { base with regs := { base.regs with a := base.regs.a.set 7 0x0FFA } } 0x0FFA
      [0x00, 0x14, 0x00, 0x01, 0x00, 0x02])) (fun t =>
        !t.regs.s && t.regs.ssp == 0x1000 && t.regs.a[7] == 0x2000 && t.regs.pc == 0x10002 && t.sf.int &&
          t.cyc == 4) = true := by decide
/-- RTE in user mode is a privilege violation with PC at the instruction (60 R183). -/
theorem test_rte_user : after (exec .rte (with_ user 0x20 [0x00, 0x07, 0x00, 0x00])) (fun t =>
    t.regs.pc == 0x70000 && t.word 0x0FFC == 0x10000) = true := by decide
/-- PR3, the handler of iteration 1. -/
theorem test_PR3_stop :
    after (exec .stop (with_ base 0x10002 [0x20, 0x00])) (fun t =>
      t.regs.pc == 0x10004 && t.regs.imask == 0 && t.sf == { SpecialFlags.none with int := true, stop := true } &&
        t.regs.stopped && t.cyc == 4) = true := by decide
/-- PR3, iteration 1 up to the end of tick 1, one step: CYC = 5 and the loop idles. -/
theorem test_PR3_first_tick :
    after (step (with_ { base with acts := [.fetch] } 0x10000 [0x4E, 0x72, 0x20, 0x00])) (fun t =>
      t.cyc == 5 && t.sf == { SpecialFlags.none with stop := true, doint := true } && t.acts == [.idle .loop]) = true := by
  decide
/-- PR4, iteration 1: the bus error inside MOVE.W. -/
theorem test_PR4_bus_error :
    after (step (with_ (with_ { base with acts := [.fetch], regs := { base.regs with d := base.regs.d.set 0 0x11112222 } }
      0x10000 [0x30, 0x39, 0x00, 0xFF, 0x00, 0x00]) 0x08 [0x00, 0x05, 0x00, 0x00])) (fun t =>
        t.regs.d[0] == 0x11112222 && t.regs.pc == 0x50000 && t.regs.a[7] == 0x0FF2 && t.cyc == 0 &&
          bytesAt t 0x0FFA 6 == [0x27, 0x00, 0x00, 0x01, 0x00, 0x06]) = true := by decide
/-- MOVE.W keeps the high half of D0 (95 section 3.1). -/
theorem test_moveW :
    after (exec .moveWAbsLD0 (with_ (with_ { base with regs := { base.regs with d := base.regs.d.set 0 0x11112222 } }
      0x10002 [0x00, 0x00, 0x80, 0x00]) 0x8000 [0xAB, 0xCD])) (fun t =>
        t.regs.d[0] == 0x1111ABCD && t.regs.pc == 0x10006) = true := by decide
/-- PR5, iteration 1: the A-line word, PC still at it, an odd handler installed. -/
theorem test_PR5_line_A :
    after (step (with_ (with_ { user with acts := [.fetch] } 0x10000 [0xA1, 0x23]) 0x28 [0x00, 0x02, 0x00, 0x01])) (fun t =>
      t.regs.pc == 0x20001 && t.cyc == 4 && bytesAt t 0x0FFA 6 == [0x00, 0x00, 0x00, 0x01, 0x00, 0x00]) = true := by decide
/-- PR5, iteration 2: the fetch at the odd address. -/
theorem test_PR5_fetch_fault :
    after (step (with_ { base with
      acts := [.fetch]
      regs := { base.regs with pc := 0x20001, imask := 0, a := base.regs.a.set 7 0x0FFA } }
      0x0C [0x00, 0x04, 0x00, 0x00])) (fun t =>
        t.frec == some { addr := 0x20001, size := .two, dir := .read } && t.regs.a[7] == 0x0FEC && t.cyc == 0 &&
          t.regs.pc == 0x40000 && bytesAt t 0x0FF4 6 == [0x20, 0x00, 0x00, 0x02, 0x00, 0x01]) = true := by decide
/-- PR6: the hook moves PC and sets BRK; the run ends. -/
theorem test_PR6_hooked_line_F :
    after (step (with_ { user with
      acts := [.fetch]
      hooks := [(.exception 11, 7)]
      answers := [(.hook 7 (.exception 11) (.vector 11), doing [.call ⟨.setPC 0x10002, rfl⟩, .call ⟨.setFlag .brk, rfl⟩] true)] }
      0x10000 [0xF0, 0x01])) (fun t =>
        t.regs.pc == 0x10002 && t.regs.a[7] == 0x2000 && t.sf == { SpecialFlags.none with brk := true } && t.cyc == 4 &&
          t.acts == []) = true := by decide
/-- RTS pops the return address (the family; log 14). -/
theorem test_rts :
    after (exec .rts (with_ base 0x1000 [0x00, 0x01, 0x23, 0x44])) (fun t =>
      t.regs.pc == 0x12344 && t.regs.a[7] == 0x1004) = true := by decide
/-- LINK A6, #-8 (the family; log 15). -/
theorem test_link :
    after (exec (.link 6) (with_ { base with regs := { base.regs with a := base.regs.a.set 6 0x55 } } 0x10002 [0xFF, 0xF8]))
      (fun t => t.regs.a[6] == 0x0FFC && t.regs.a[7] == 0x0FF4 && t.word 0x0FFC == 0x55 && t.regs.pc == 0x10004) = true := by
  decide
/-- JSR -2(PC, D1.W) (the family; log 16): 0x10002 - 2 + 0x10 from the low half of D1. -/
theorem test_jsr_pc_index :
    after (exec (.jsr 7 3) (with_ { base with regs := { base.regs with d := base.regs.d.set 1 0x00FF0010 } }
      0x10002 [0x10, 0xFE])) (fun t =>
        t.regs.pc == 0x10010 && t.regs.a[7] == 0x0FFC && t.word 0x0FFC == 0x10004) = true := by decide
/-- TRAPV with V set: vector 7 at 0x1C, PC past the instruction (60 R156, R178). -/
theorem test_trapv :
    after (exec .trapv (with_ { base with regs := { base.regs with v := true } } 0x1C [0x00, 0x06, 0x00, 0x00])) (fun t =>
      t.regs.pc == 0x60000 && t.word 0x0FFC == 0x10002) = true := by decide
/-- An injected handler writes D2 and costs 10 cycles (40 R84, R90). -/
theorem test_dispatch_injected :
    after (exec (.dispatch 0x7005) { base with
      answers := [(.handler 0x7005, { Answer.quiet with body := [.writeCell (.d 2) 5], cost := 10 })] }) (fun t =>
        t.regs.d[2] == 5 && t.cyc == 10) = true := by decide
/-- TV46, R216: a handler writes the stale cache alone; the next PackSR overwrites it. -/
theorem test_dispatch_writes_SR :
    after (exec (.dispatch 0x7005) { base with
      answers := [(.handler 0x7005,
        { Answer.quiet with body := [.writeCell .sr 0xFFFF, .writeStopped true], cost := 10 })] }) (fun t =>
        t.regs.sr == 0xFFFF && t.regs.stopped && t.regs.imask == 7 &&
          after (exec .packSR t) (fun u => u.regs.sr == 0x2700)) = true := by decide
/-- A break location is hit: the callback moves PC, and the loop fetches there (40 R82). -/
def breaking : State :=
  with_ { base with
    acts := [.fetch]
    answers := [(.isBreakLocation 0x10000, doing [] true),
      (.onInstructionBreak, doing [.call ⟨.setPC 0x10004, rfl⟩] false)] } 0x10004 [0x4E, 0x71]
theorem test_break_location :
    after (step breaking) (fun t => t.regs.pc == 0x10006 && t.cyc == 4 &&
      t.calls.drop 2 == [.checkNewPC 0x10004, .onInstructionBreak, .isBreakLocation 0x10000]) = true := by decide
/-- A run inside a callback that outlasts the bound: the step is tried again with a larger one (93 V11; log 10). -/
theorem test_retry :
    after (exec .breakCheck (with_ { base with
      nested := true
      bound := 0
      answers := [(.sessionShouldBreak, doing [.call ⟨.setFlag .brk, rfl⟩, .call ⟨.execute, rfl⟩] false)] }
      0x10000 [0x4E, 0x71])) (fun t => t.bound == 1 && t.regs.pc == 0x10000 && t.calls == [] &&
        after (exec .breakCheck t) (fun u => u.bound == 1 && u.regs.pc == 0x10002)) = true := by decide
/-- A callback runs `execute()` inside itself with NESTED set, to its end (40 R87). -/
theorem test_nested_execute :
    after (exec .breakCheck (with_ { base with
      nested := true
      answers := [(.sessionShouldBreak, doing [.call ⟨.setFlag .brk, rfl⟩, .call ⟨.execute, rfl⟩] false)] } 0x10000 [0x4E, 0x71]))
      (fun t => t.regs.pc == 0x10002 && t.cyc == 4 && t.iter == 0 && t.acts == []) = true := by decide

/-! ## Witnesses: a state and operands that meet all hypotheses of an obligation, one for each clause -/

/-- An idling and a running machine, and one with hooks. -/
def idling : State :=
  { base with acts := [.idle .loop], sf := { SpecialFlags.none with stop := true } }
def running : State := with_ { base with acts := [.fetch] } 0x10000 [0x4E, 0x71]
def hooked : State :=
  { base with
    hooks := [(.exception 10, 1), (.exception 10, 2)]
    answers := [(.hook 2 (.exception 10) (.vector 10), doing [] true)] }
def serving (l : Nat) : State :=
  { base with
    sf := { SpecialFlags.none with doint := true }
    regs := { base.regs with imask := 3 }
    answers := [(.currentInterruptLevel, { Answer.quiet with level := some l })] }

/-- The machine elsewhere: another PC, another A[7]. -/
def placed (pc sp : Word) : State :=
  { base with regs := { base.regs with pc := pc, a := base.regs.a.set 7 sp } }
/-- A memory fault, and a machine in which the validation of one address ends in it. -/
def validating : MemFault := { kind := .bus, addr := 0x20000, size := .two, dir := .read }
def rejecting (s : State) (addr : Word) : State :=
  { s with answers := [(.checkNewPC addr, { Answer.quiet with fault := some validating })] }
/-- What FaultsAtAccess asks for: the access is rejected, and the exception can be taken from the state reached. -/
def faultMet (s m : State) (addr : Word) (size : AccessSize) (dir : Dir) (kind : FaultKind) : Bool :=
  decide (s.cfg.policy.verdict addr size dir = some kind) &&
    decide ((m.recorded { kind := kind, addr := addr, size := size, dir := dir }).CanTake
      (MemFault.vector { kind := kind, addr := addr, size := size, dir := dir }))

theorem test_witness_DecodeOfEncodeIsInstruction :
    ∃ i : Instr, i.wellFormed = true ∧ i.isOpcodeWord = true ∧ ∀ op, i ≠ .dispatch op :=
  ⟨.illegalOther 0xE 0xFFF, by decide, by decide, fun _ h => Instr.noConfusion h⟩

theorem test_witness_Observing_with_answers : hooked.Observing ∧ hooked.answers ≠ [] := by decide

theorem test_witness_unknown_register : 25 < 26 := by decide

theorem test_witness_validator_fault :
    (rejecting base 0xFFFFFFFF).Silent ∧ (rejecting base 0xFFFFFFFF).validatorFault 0xFFFFFFFF = some validating ∧
      (rejecting base tv46.pc).Silent ∧ (rejecting base tv46.pc).validatorFault tv46.pc = some validating := by decide
theorem test_witness_load :
    ∃ (r : RegFile) (b : List Byte) (s : State), r.Shown b ∧ s.file 3 = some b ∧ s.Observing ∧ r ≠ s.regs :=
  ⟨tv46, tv46.blob, { base with files := [(3, tv46.blob)] }, tv46.shown_blob, by rfl, by decide, by decide⟩
theorem test_witness_load_fault :
    ∃ (r : RegFile) (b : List Byte) (s : State), r.Shown b ∧ s.file 3 = some b ∧ s.Silent ∧
      s.validatorFault r.pc = some validating :=
  ⟨tv46, tv46.blob, { rejecting base tv46.pc with files := [(3, tv46.blob)] }, tv46.shown_blob, by rfl, by decide,
    by decide⟩
theorem test_witness_SaveThenLoadRoundTrips :
    ∃ s s1 s2 : State, exec (.save 3) s = .next s1 ∧ s2.file 3 = s1.file 3 ∧ s2.Observing ∧ s2.regs ≠ s1.regs :=
  ⟨{ base with regs := tv46 }, ({ base with regs := tv46 } : State).packSR.putFile 3 tv46.blob,
    { base with files := [(3, tv46.blob)] }, by rfl, by decide, by decide, by decide⟩

theorem test_witness_LoadRefusesBadBlob_first_flag :
    ∃ (r : RegFile) (b : List Byte) (s : State), r.Shown b ∧ s.file 3 = some (b.set 100 2) :=
  ⟨tv46, tv46.blob, { base with files := [(3, tv46.blob.set 100 2)] }, tv46.shown_blob, by rfl⟩
theorem test_witness_LoadRefusesBadBlob_last_flag :
    ∃ (r : RegFile) (b : List Byte) (s : State), r.Shown b ∧ s.file 3 = some (b.set 109 255) :=
  ⟨tv46, tv46.blob, { base with files := [(3, tv46.blob.set 109 255)] }, tv46.shown_blob, by rfl⟩
theorem test_witness_LoadRefusesBadBlob_mask :
    ∃ (r : RegFile) (b : List Byte) (s : State), r.Shown b ∧ (7 : Byte) < 8 ∧ s.file 3 = some (b.set 104 8) :=
  ⟨tv46, tv46.blob, { base with files := [(3, tv46.blob.set 104 8)] }, tv46.shown_blob, by decide, by rfl⟩
theorem test_witness_LoadRefusesBadBlob_length :
    ∃ (b : List Byte) (s : State), b.length ≠ 110 ∧ s.file 3 = some b :=
  ⟨[0], { base with files := [(3, [0])] }, by decide⟩
theorem test_witness_LoadRefusesBadBlob_no_file : base.file 3 = none := by decide

theorem test_witness_HookRegistry :
    HookKey.exception 255 ∉ base.busy ∧ HookKey.jsr ∈ ({ base with busy := [.jsr] } : State).busy ∧
      (HookKind.newSP, HookKey.newSP) ∈ [(HookKind.jsr, HookKey.jsr), (.jsrInd, .jsrInd), (.link, .link), (.rte, .rte),
        (.rts, .rts), (.newPC, .newPC), (.newSP, .newSP)] ∧ 255 < 256 := by decide

theorem test_witness_SetPC_completes : ∃ s t : State, exec (.setPC 3) s = .next t ∧ t.bound = s.bound :=
  ⟨base, _, by rfl, by rfl⟩

theorem test_witness_ShortFrameExceptionEntry :
    255 ≤ 255 ∧ base.Observing ∧ base.mem.wf = true ∧ base.handles 255 = false ∧ base.ShortFrameFits 255 ∧
      base.handles 0 = false ∧ base.ShortFrameFits 0 := by decide
theorem test_witness_LongFrameExceptionEntry :
    user.Observing ∧ user.mem.wf = true ∧ user.handles 2 = false ∧ user.LongFrameFits 2 ∧ user.handles 3 = false ∧
      user.LongFrameFits 3 := by decide
theorem test_witness_HandledExceptionOnlyPacksSR : hooked.Observing ∧ hooked.handles 10 = true := by decide

/-- A machine whose stack lies outside memory. -/
def badStack : State := { base with regs := { base.regs with a := base.regs.a.set 7 0x00F00000 } }

theorem test_witness_refusal_double_fault :
    badStack.Observing ∧ badStack.handles 255 = false ∧ ¬ badStack.FrameFits 255 ∧ badStack.handles 2 = false ∧
      ¬ badStack.FrameFits 2 := by decide
theorem test_witness_refusal_validator_short :
    (rejecting base 0).Silent ∧ (rejecting base 0).handles 255 = false ∧ (rejecting base 0).FrameFits 255 ∧
      (rejecting base 0).word (vectorAddress 0 255) = 0 ∧
      (∀ k, k < 4 → Outside (vectorAddress 0 255 + BitVec.ofNat 32 k) ((rejecting base 0).entrySP - 6) 6) ∧
      ((rejecting base 0).calledAll ((rejecting base 0).hookCalls (.exception 255) (.vector 255))).validatorFault 0 =
        some validating := by
  unfold Outside
  decide
theorem test_witness_refusal_validator_long :
    (rejecting user 0).Silent ∧ (rejecting user 0).handles 3 = false ∧ (rejecting user 0).FrameFits 3 ∧
      (rejecting user 0).word (vectorAddress 0 3) = 0 ∧
      (∀ k, k < 4 → Outside (vectorAddress 0 3 + BitVec.ofNat 32 k) ((rejecting user 0).entrySP - 14) 14) ∧
      ((rejecting user 0).calledAll ((rejecting user 0).hookCalls (.exception 3) (.vector 3))).validatorFault 0 =
        some validating := by
  unfold Outside
  decide
theorem test_witness_refusal_interrupt_vector :
    (∃ s : State, s.Observing ∧ ((s.answer .interruptVectorBase).number.getD s.cfg.vectorBase) + ((0 : Nat) : Int) < 0) ∧
      ∃ s : State, s.Observing ∧ 255 < ((s.answer .interruptVectorBase).number.getD s.cfg.vectorBase) + ((7 : Nat) : Int) :=
  ⟨⟨{ base with answers := [(.interruptVectorBase, { Answer.quiet with number := some (-1) })] }, by decide⟩,
    ⟨{ base with answers := [(.interruptVectorBase, { Answer.quiet with number := some 249 })] }, by decide⟩⟩

theorem test_witness_BusError : base.CanTake 2 := by decide
theorem test_witness_AddressError : user.CanTake 3 := by decide
theorem test_witness_IllegalInstruction_line_A : (0xA000 : Half).extractLsb' 12 4 = 0xA ∧ hooked.CanTake 10 := by decide
theorem test_witness_IllegalInstruction_line_F : (0xFFFF : Half).extractLsb' 12 4 = 0xF ∧ base.CanTake 11 := by decide
theorem test_witness_IllegalInstruction_other :
    (0xB000 : Half).extractLsb' 12 4 ≠ 0xA ∧ (0xB000 : Half).extractLsb' 12 4 ≠ 0xF ∧ user.CanTake 4 := by decide
theorem test_witness_ProcessInterrupt :
    base.Observing ∧ (31 : Int) = ((base.answer .interruptVectorBase).number.getD base.cfg.vectorBase) + ((7 : Nat) : Int) ∧
      (base.called .interruptVectorBase).CanTake 31 := by decide
theorem test_witness_ProcessInterrupt_completes :
    ∃ s t : State, exec (.processInterrupt 7) s = .next t ∧ t.bound = s.bound :=
  ⟨base, _, by rfl, by rfl⟩

theorem test_witness_Trap :
    ({ base with regs := { base.regs with pc := base.regs.pc + 2 }, cyc := base.cyc + 4 } : State).CanTake
      (32 + (15 : BitVec 4).toNat) := by decide
theorem test_witness_Trapv :
    base.regs.v = false ∧ ∃ s : State, s.regs.v = true ∧
      ({ s with regs := { s.regs with pc := s.regs.pc + 2 }, cyc := s.cyc + s.cfg.externalCost } : State).CanTake 7 :=
  ⟨by decide, { base with regs := { base.regs with v := true } }, by decide⟩
theorem test_witness_IllegalWords_line_A : ({ base with cyc := base.cyc + 4 } : State).CanTake 10 := by decide
theorem test_witness_IllegalWords_line_F : ({ base with cyc := base.cyc + 4 } : State).CanTake 11 := by decide
theorem test_witness_IllegalWords_other :
    ({ base with cyc := base.cyc + 4 } : State).CanTake 4 ∧ (0xE : BitVec 4) ≠ 0xA ∧ (0xE : BitVec 4) ≠ 0xF := by decide
theorem test_witness_MoveWord :
    base.Permits (base.regs.pc + 2) .four .read ∧ base.Permits (base.word (base.regs.pc + 2)) .two .read := by decide

/-- MOVE.W from an odd address, and from an unmapped one. -/
def moveFrom (hi lo : Byte) : State := with_ base 0x10002 [0x00, hi, 0x00, lo]

theorem test_witness_HandlerFault_any :
    ∃ (run : Runner) (body : State → Run Word) (s m : State) (f : MemFault),
      body { s with ctx := .handler } = .abort f m ∧ ({ m with ctx := s.ctx }.recorded f).CanTake f.vector :=
  ⟨base.runner, fun m => .abort validating m, base, { base with ctx := .handler }, validating, by rfl, by decide⟩
theorem test_witness_HandlerFault_moveW_operand :
    (moveFrom 0 1).Permits ((moveFrom 0 1).regs.pc + 2) .four .read ∧
      faultMet (moveFrom 0 1) { moveFrom 0 1 with regs := { (moveFrom 0 1).regs with pc := 0x10006 } }
        ((moveFrom 0 1).word 0x10002) .two .read .address ∧
      faultMet (moveFrom 0xFF 0) { moveFrom 0xFF 0 with regs := { (moveFrom 0xFF 0).regs with pc := 0x10006 } }
        ((moveFrom 0xFF 0).word 0x10002) .two .read .bus := by decide
/-- The extension words: at an odd address, past the end of memory, and with only their last byte past it. -/
theorem test_witness_HandlerFault_extension :
    faultMet (placed 0x10001 0x1000) (placed 0x10001 0x1000) 0x10003 .two .read .address ∧
      faultMet (placed 0xFFFFE 0x1000) (placed 0xFFFFE 0x1000) 0x100000 .two .read .bus ∧
      faultMet (placed 0xFFFFC 0x1000) (placed 0xFFFFC 0x1000) 0xFFFFE .four .read .bus := by decide
/-- The stack: no hook is registered, so the state reached is the machine itself, or the one with A[7] lowered. -/
theorem test_witness_HandlerFault_stack :
    (∀ ev, base.hookCalls .rte (.event ev) = [] ∧ base.hookCalls .rts (.event ev) = [] ∧
      base.hookCalls .link (.event ev) = [] ∧ base.hookCalls .jsr (.event ev) = []) ∧
      (placed 0x10000 0x100000).regs.s = true ∧ (placed 0x10000 0x100000).Silent ∧
      faultMet (placed 0x10000 0x100000) (placed 0x10000 0x100000) 0x100000 .two .read .bus ∧
      faultMet (placed 0x10000 0x100000) (placed 0x10000 0x100000) 0x100000 .four .read .bus ∧
      (placed 0x10000 0xFFFFE).Permits 0xFFFFE .two .read ∧
      faultMet (placed 0x10000 0xFFFFE) (placed 0x10000 0xFFFFE) 0x100000 .four .read .bus ∧
      faultMet (placed 0x10000 0x100002) (placed 0x10000 0xFFFFE) 0xFFFFE .four .write .bus :=
  ⟨fun _ => ⟨rfl, rfl, rfl, rfl⟩, by decide⟩
theorem test_witness_HandlerFault_jsr_push :
    isControlMode 2 3 = true ∧ controlAddress 2 3 (placed 0x10000 0x100002) = .ok (0, 0x10002) (placed 0x10000 0x100002) :=
  ⟨by decide, by rfl⟩

theorem test_witness_Stop : base.regs.s = true ∧ base.Permits (base.regs.pc + 2) .two .read := by decide
theorem test_witness_Rte :
    base.regs.s = true ∧ base.Observing ∧ base.Permits base.regs.a[7] .two .read ∧
      base.Permits (base.regs.a[7] + 2) .four .read := by decide
/-- The validation of the popped PC, or of the target, faults; what it leaves can take the bus error. -/
theorem test_witness_Rte_validator :
    (rejecting base 0).Silent ∧ (∀ ev, (rejecting base 0).hookCalls .rte (.event ev) = []) ∧
      (rejecting base 0).word ((rejecting base 0).regs.a[7] + 2) = 0 ∧
      (rejecting base 0).validatorFault 0 = some validating ∧
      after (exec (.setSR ((rejecting base 0).half 0x1000))
        { rejecting base 0 with regs := { base.regs with a := base.regs.a.set 7 0x1006 } }) (fun u =>
          decide (({ (rejecting base 0).calledAll [.checkNewPC 0] with
            regs := u.regs, sf := u.sf } : State).recorded validating |>.CanTake 2)) = true :=
  ⟨by decide, fun _ => rfl, by decide, by decide, by decide⟩
theorem test_witness_Rts_validator :
    (rejecting base 0).Silent ∧ (rejecting base 0).word (rejecting base 0).regs.a[7] = 0 ∧
      (rejecting base 0).validatorFault 0 = some validating ∧
      (({ (rejecting base 0).calledAll [.checkNewPC 0] with
        regs := { base.regs with a := base.regs.a.set 7 0x1004 } } : State).recorded validating).CanTake 2 := by decide
theorem test_witness_Jsr_validator :
    (∀ ev, (rejecting base 0).hookCalls .jsr (.event ev) = []) ∧ (rejecting base 0).mem.wf = true ∧
      (rejecting base 0).Permits 0x0FFC .four .write ∧ isControlMode 2 3 = true ∧ controlAddress 2 3 (rejecting base 0) = .ok (0, 0x10002) (rejecting base 0) ∧
      (rejecting base 0).Silent ∧ (rejecting base 0).validatorFault 0 = some validating ∧
      (({ ((rejecting base 0).setWord 0x0FFC 0x10002).calledAll [.checkNewPC 0] with
        regs := { base.regs with a := base.regs.a.set 7 0x0FFC } } : State).recorded validating).CanTake 2 :=
  ⟨fun _ => rfl, by decide, by decide, by decide, by rfl, by decide, by decide, by decide⟩
theorem test_witness_Privileged :
    user.regs.s = false ∧ ({ user with cyc := user.cyc + 4 } : State).CanTake 8 := by decide
theorem test_witness_Rts : base.Observing ∧ base.Permits base.regs.a[7] .four .read := by decide
theorem test_witness_Link :
    base.Observing ∧ base.mem.wf = true ∧ base.Permits (base.regs.pc + 2) .two .read ∧
      base.Permits (base.regs.a[7] - 4) .four .write := by decide
theorem test_witness_JsrTarget : base.Permits (base.regs.pc + 2) .two .read ∧ base.Permits (base.regs.pc + 2) .four .read := by
  decide
theorem test_witness_Jsr_control :
    isControlMode 7 3 = true ∧ base.Observing ∧ base.mem.wf = true ∧ base.Permits (base.regs.a[7] - 4) .four .write ∧
      ∃ target next, controlAddress 7 3 base = .ok (target, next) base :=
  ⟨by decide, by decide, by decide, by decide, _, _, by rfl⟩
theorem test_witness_Jsr_other :
    isControlMode 7 4 = false ∧ isControlMode 0 0 = false ∧ ({ base with cyc := base.cyc + 4 } : State).CanTake 4 := by
  decide

/-- A machine with an injected handler for 0x7005 that writes D2 and the packed SR and may end in a bus error. -/
def injected (f : Option MemFault) : State :=
  { base with
    answers := [(.handler 0x7005,
      { Answer.quiet with body := [.writeCell (.d 2) 5, .writeCell .sr 0xFFFF], cost := 10, fault := f })] }

theorem test_witness_Dispatch_default : base.prepared (.handler 0x7005) = false := by decide
theorem test_witness_Dispatch_done :
    (injected none).prepared (.handler 0x7005) = true ∧
      ((injected none).answer (.handler 0x7005)).body =
        [((RegId.d 2, 5) : RegId × Word), (RegId.sr, 0xFFFF)].map (fun w => HandlerAct.writeCell w.1 w.2) ∧
      ((injected none).answer (.handler 0x7005)).fault = none := by decide
theorem test_witness_Dispatch_fault :
    ((injected (some validating)).answer (.handler 0x7005)).fault = some validating ∧
      (({ (injected (some validating)).called (.handler 0x7005) with
        regs := [((RegId.d 2, 5) : RegId × Word), (RegId.sr, 0xFFFF)].foldl (fun r w => r.putCell w.1 w.2)
          base.regs } : State).recorded validating).CanTake 2 := by decide
/-- A handler that writes D2, then stores to an odd address. -/
def storing : State :=
  { base with answers := [(.handler 0x7005,
    { Answer.quiet with body := [.writeCell (.d 2) 5, .store 0x1001 .two 7, .writeMask 0], cost := 10 })] }
theorem test_witness_Dispatch_store :
    storing.prepared (.handler 0x7005) = true ∧
      (storing.answer (.handler 0x7005)).body =
        [((RegId.d 2, 5) : RegId × Word)].map (fun w => HandlerAct.writeCell w.1 w.2) ++
          .store 0x1001 .two 7 :: [.writeMask 0] ∧
      faultMet storing { storing.called (.handler 0x7005) with
        regs := [((RegId.d 2, 5) : RegId × Word)].foldl (fun r w => r.putCell w.1 w.2) base.regs } 0x1001 .two .write
        .address := by decide

theorem test_witness_Execute :
    base.acts = [] ∧ ({ running with nested := true } : State).nested = true ∧ running.acts ≠ [] ∧ running.nested = false := by
  decide
theorem test_witness_StepRunsTheDecodedInstruction :
    running.port = [] ∧ running.acts = .fetch :: [] ∧
      BreakQuery running (running.called (.isBreakLocation running.regs.pc)) ∧
      (running.called (.isBreakLocation running.regs.pc)).Permits running.regs.pc .two .read ∧
      decode [running.byte running.regs.pc, running.byte (running.regs.pc + 1)] = .ok (.nop, []) :=
  ⟨by decide, by decide, .inr ⟨rfl, rfl, .inl ⟨rfl, rfl⟩⟩, by decide, by rfl⟩
theorem test_witness_StepRunsTheDecodedInstruction_break :
    ∃ s1 : State, breaking.port = [] ∧ breaking.acts = .fetch :: [] ∧ BreakQuery breaking s1 ∧ s1.regs.pc = 0x10004 ∧
      s1.Permits 0x10004 .two .read ∧ decode [s1.byte 0x10004, s1.byte 0x10005] = .ok (.nop, []) :=
  ⟨_, by decide, by decide, .inr ⟨rfl, rfl, .inr ⟨rfl, rfl⟩⟩, by rfl, by rfl, by rfl⟩
theorem test_witness_StepRunsTheDecodedInstruction_nested :
    BreakQuery { running with nested := true } { running with nested := true } ∧
      ({ running with nested := true } : State).Permits running.regs.pc .two .read :=
  ⟨.inl ⟨rfl, rfl⟩, by decide⟩

/-- A running machine at another PC. -/
def runningAt (pc : Word) : State := { base with acts := [.fetch], regs := { base.regs with pc := pc } }

theorem test_witness_FetchFault_address :
    BreakQuery (runningAt 0x20001) ((runningAt 0x20001).called (.isBreakLocation 0x20001)) ∧
      faultMet ((runningAt 0x20001).called (.isBreakLocation 0x20001))
        ((runningAt 0x20001).called (.isBreakLocation 0x20001)) 0x20001 .two .read .address :=
  ⟨.inr ⟨rfl, rfl, .inl ⟨rfl, rfl⟩⟩, by decide⟩
theorem test_witness_FetchFault_bus :
    BreakQuery { runningAt 0x100000 with nested := true } { runningAt 0x100000 with nested := true } ∧
      faultMet { runningAt 0x100000 with nested := true } { runningAt 0x100000 with nested := true } 0x100000 .two .read
        .bus :=
  ⟨.inl ⟨rfl, rfl⟩, by decide⟩
theorem test_witness_IterationOfNop :
    running.port = [] ∧ running.acts = .fetch :: [] ∧ running.sf.any = false ∧ running.Observing ∧
      (running.answer (.isBreakLocation running.regs.pc)).yes = false ∧ running.Permits running.regs.pc .two .read ∧
      running.half running.regs.pc = 0x4E71 ∧ running.prepared (.handler 0x4E71) = false := by decide
theorem test_witness_HostCallsWhileRunning :
    (∃ (s : State) (i : Call), s.port = i :: [] ∧ s.acts ≠ [] ∧ i.val = .setFlag .eoc) ∧
      ∃ (s : State) (i : Call), s.port = i :: [] ∧ s.acts ≠ [] ∧
        ¬ (i.val = .setFlag .eoc ∨ i.val = .setFlag .brk ∨ i.val = .cycleCount) :=
  ⟨⟨{ running with port := [⟨.setFlag .eoc, rfl⟩] }, ⟨.setFlag .eoc, rfl⟩, rfl, by decide, rfl⟩,
    ⟨{ running with port := [⟨.setFlag .int, rfl⟩] }, ⟨.setFlag .int, rfl⟩, rfl, by decide, by decide⟩⟩

theorem test_witness_NestedPass : ∃ s : State, s.Observing ∧ s.nested = true :=
  ⟨{ base with nested := true }, by decide⟩
theorem test_witness_EndOfCycle :
    ∃ s : State, s.Observing ∧ s.nested = false ∧ s.sf.eoc = true ∧ (s.answer (.onEndOfCycle false)).yes = true :=
  ⟨{ base with sf := { SpecialFlags.none with eoc := true, int := true }, answers := [(.onEndOfCycle false, doing [] true)] },
    by decide⟩
theorem test_witness_EndOfCycle_chain :
    ∃ s : State, s.Observing ∧ s.nested = false ∧ s.sf.eoc = true ∧ (s.answer (.onEndOfCycle false)).yes = false ∧
      s.cfg.scEval = .chain :=
  ⟨{ base with cfg := { base.cfg with scEval := .chain }, sf := { SpecialFlags.none with eoc := true, doint := true } },
    by decide⟩
/-- The end-of-cycle callback sets the flag again (41 R102, the corner case). -/
def reraising (sc : ScEval) (yes : Bool) : State :=
  { base with
    cfg := { base.cfg with scEval := sc }
    sf := { SpecialFlags.none with eoc := true, int := true }
    answers := [(.onEndOfCycle false, doing [raiseEOC] yes)] }
theorem test_R102_reraised :
    after (exec .executeSpecial (reraising .sequential false)) (fun t =>
      t.sf == { SpecialFlags.none with eoc := true, doint := true } && t.ret == some (.bool false) &&
        t.calls == [.sessionShouldBreak, .onEndOfCycle false]) = true := by decide
theorem test_witness_EndOfCycle_reraised (sc : ScEval) (yes : Bool) :
    (reraising sc yes).nested = false ∧ (reraising sc yes).sf.eoc = true ∧
      ((reraising sc yes).called (.onEndOfCycle false)).Observing ∧
      ((reraising sc yes).answer (.onEndOfCycle false)).acts = [raiseEOC] ∧
      ((reraising sc yes).answer (.onEndOfCycle false)).yes = yes ∧ (reraising sc yes).cfg.scEval = sc ∧
      (reraising sc yes).sf.dotrace = false ∧ (reraising sc yes).sf.stop = false ∧
      (reraising sc yes).sf.doint = false := by
  cases sc <;> cases yes <;> decide
/-- TV27 with TV35: end of cycle answered "no", INT and DOINT, no level. -/
def manyFlags : State := passOf { SpecialFlags.none with eoc := true, int := true, doint := true } 0 []
theorem test_witness_SequentialPass :
    (manyFlags.Observing ∧ manyFlags.nested = false ∧ manyFlags.cfg.scEval = .sequential ∧ manyFlags.sf.stop = false ∧
      (manyFlags.answer (.onEndOfCycle false)).yes = false ∧ manyFlags.sf.dotrace = false) ∧
      ∀ u, FiresTrace manyFlags.endOfCycled u → u.traceArmed.CanServe :=
  ⟨by decide, fun u h => by
    rw [h.2 (.inl rfl)]
    intro _ l hl
    exact absurd hl (by rw [show manyFlags.endOfCycled.traceArmed.levelRead = none by rfl]; exact fun h => nomatch h)⟩
/-- TV39: the trace exception, then the service of level 2. -/
def tv39 : State :=
  { base with
    sf := { SpecialFlags.none with dotrace := true, doint := true }
    regs := { base.regs with t1 := true, imask := 0, pc := 0x10004 }
    answers := [(.currentInterruptLevel, { Answer.quiet with level := some 2 })] }
theorem test_witness_SequentialPass_trace_then_interrupt :
    (tv39.Observing ∧ tv39.nested = false ∧ tv39.cfg.scEval = .sequential ∧ tv39.sf.stop = false ∧ tv39.sf.eoc = false ∧
      tv39.sf.dotrace = true ∧ tv39.endOfCycled.CanTake 9) ∧
      ∀ u, FiresTrace tv39.endOfCycled u → u.traceArmed.CanServe := by
  refine ⟨by decide, fun u h => ?_⟩
  obtain ⟨hby, hwf, -⟩ := ((h.1 ⟨rfl, rfl⟩).1 (by decide)).2 (by decide)
  have hfit : ∀ x : State, x.regs.s = true → x.regs.a[7] = tv39.endOfCycled.entrySP - 6 → x.regs.vbr = 0 →
      x.cfg = base.cfg → x.ShortFrameFits 26 := by
    intro x h1 h2 h3 h4
    simp only [State.Permits, State.PermitsFull, State.ShortFrameFits, State.entrySP, if_pos h1, h2, h3, h4]
    decide
  refine (congrArg (fun x : State => x.traceArmed.CanServe) hby).mpr ?_
  intro _ l hl _
  cases (show some 2 = some l from hl)
  exact ⟨by decide, 26, by rfl, by decide, fun e he => (List.not_mem_nil (show e ∈ [] from he)).elim, hwf,
    fun _ => ⟨fun h => absurd h (by decide), fun _ => by
      apply hfit
      · rfl
      · exact Vector.getElem_set_self _
      · rfl
      · rfl⟩⟩
/-- A pass under `chain`, from special flags, T1, a mask and the answers. -/
def chainOf (f : SpecialFlags) (t1 : Bool) (mask : BitVec 3) (answers : List (EnvCall × Answer)) : State :=
  { base with
    cfg := { base.cfg with scEval := .chain }
    sf := f
    regs := { base.regs with t1 := t1, imask := mask }
    answers := answers }
theorem test_witness_ChainPass_trace :
    ∃ s : State, s.Observing ∧ s.nested = false ∧ s.cfg.scEval = .chain ∧ s.sf.eoc = false ∧ s.sf.stop = false ∧
      s.sf.dotrace = true ∧ s.sf.int = true ∧ s.sf.doint = true ∧ s.CanTake 9 :=
  ⟨chainOf { SpecialFlags.none with dotrace := true, int := true, doint := true } true 0 [], by decide⟩
theorem test_witness_ChainPass_arms :
    ∃ s : State, s.Observing ∧ s.nested = false ∧ s.cfg.scEval = .chain ∧ s.sf.eoc = false ∧ s.sf.stop = false ∧
      s.sf.dotrace = false ∧ s.sf.trace = true ∧ s.regs.t1 = true ∧ s.sf.int = true :=
  ⟨chainOf { SpecialFlags.none with trace := true, int := true } true 0 [], by decide⟩
/-- INT alone. -/
theorem test_witness_ChainPass_defers :
    ∃ s : State, s.Observing ∧ s.nested = false ∧ s.cfg.scEval = .chain ∧ s.sf = { SpecialFlags.none with int := true } ∧
      s.serves = false ∧ s.CanServe :=
  ⟨chainOf { SpecialFlags.none with int := true } false 0 [], by decide, by decide, by decide, by decide, by decide,
    fun h => absurd h (by decide)⟩
/-- TRACE with T1 clear, and a level above the mask. -/
theorem test_witness_ChainPass_serves :
    ∃ s : State, s.Observing ∧ s.nested = false ∧ s.cfg.scEval = .chain ∧ s.sf.trace = true ∧ s.regs.t1 = false ∧
      s.serves = true ∧ s.CanServe :=
  ⟨chainOf { SpecialFlags.none with trace := true, int := true, doint := true } false 6
      [(.currentInterruptLevel, { Answer.quiet with level := some 7 })], by decide, by decide, by decide, by decide,
    by decide, by decide, fun _ l hl _ => by
      cases (show some 7 = some l from hl)
      exact ⟨by decide, 31, by decide, by decide⟩⟩
/-- R115: under `chain`, TRACE with INT arms first and leaves INT; the next pass but one defers it. -/
theorem test_R115_chain_arms_first :
    after (exec .executeSpecial (chainOf { SpecialFlags.none with trace := true, int := true } true 0 [])) (fun t =>
      t.sf == { SpecialFlags.none with dotrace := true, int := true } && t.lta == some 0x10000) = true := by decide
theorem test_witness_PassArms :
    ∃ s : State, s.Observing ∧ s.nested = false ∧ s.cfg.scEval = .sequential ∧ s.sf.eoc = false ∧ s.sf.dotrace = false ∧
      s.sf.stop = false ∧ s.sf.doint = false ∧ s.sf.trace = true ∧ s.regs.t1 = true ∧ s.sf.int = true :=
  ⟨{ base with
      sf := { SpecialFlags.none with trace := true, int := true }, regs := { base.regs with t1 := true } }, by decide⟩
theorem test_witness_PassFiresTrace :
    ∃ s : State, s.nested = false ∧ s.CanTake 9 ∧ s.handles 9 = false ∧
      s.sf = { SpecialFlags.none with dotrace := true, brk := s.sf.brk } :=
  ⟨{ base with sf := { SpecialFlags.none with dotrace := true } }, by decide⟩
theorem test_witness_PassServes_latched :
    ∃ s : State, s.Observing ∧ s.nested = false ∧
      s.sf = { SpecialFlags.none with doint := true, int := s.sf.int, brk := s.sf.brk } ∧ s.sf.int = true ∧
      (s.answer .kernelStackOverflowed).yes = true :=
  ⟨{ base with
      sf := { SpecialFlags.none with doint := true, int := true }, answers := [(.kernelStackOverflowed, doing [] true)] },
    by decide⟩
theorem test_witness_PassServes_no_level :
    ∃ s : State, s.Observing ∧ s.nested = false ∧
      s.sf = { SpecialFlags.none with doint := true, int := s.sf.int, brk := s.sf.brk } ∧ s.sf.int = true ∧
      (s.answer .kernelStackOverflowed).yes = false ∧
      ((s.called .kernelStackOverflowed).answer .currentInterruptLevel).level = none :=
  ⟨passOf { SpecialFlags.none with int := true, doint := true } 0 [], by decide⟩
theorem test_witness_PassServes_masked :
    (serving 3).Observing ∧ ((serving 3).answer .kernelStackOverflowed).yes = false ∧
      (((serving 3).called .kernelStackOverflowed).answer .currentInterruptLevel).level = some 3 ∧
      3 ≤ (serving 3).regs.imask.toNat := by decide
theorem test_witness_PassServes_served :
    (serving 4).Observing ∧ (serving 4).nested = false ∧ ((serving 4).answer .kernelStackOverflowed).yes = false ∧
      (((serving 4).called .kernelStackOverflowed).answer .currentInterruptLevel).level = some 4 ∧
      (serving 4).regs.imask.toNat < 4 ∧
      (28 : Int) = (((({ ((serving 4).called .kernelStackOverflowed).called .currentInterruptLevel with
        sf := SpecialFlags.none } : State)).answer .interruptVectorBase).number.getD (serving 4).cfg.vectorBase) + 4 ∧
      (({ ((serving 4).called .kernelStackOverflowed).called .currentInterruptLevel with
        sf := SpecialFlags.none } : State).called .interruptVectorBase).CanTake 28 := by decide
/-- A stopped machine, awake and asleep. -/
def stopped (brk : Bool) (answers : List (EnvCall × Answer)) : State :=
  passOf { SpecialFlags.none with stop := true, brk := brk } 7 answers
def asleep : State := stopped false [(.isAsleep, doing [] true), (.isActive .playback, doing [] true)]
theorem test_witness_StoppedLoop :
    (stopped false []).Observing ∧ (stopped false []).sf.stop = true ∧ (stopped false []).sf.doint = false ∧
      (stopped false []).sf.int = false ∧ (stopped false []).wakeCalls = [.isAsleep] ∧
      ((stopped false []).sf.brk || (((stopped false []).calledAll ((stopped false []).wakeCalls ++
        [.delay, .onCycle true, .onCycleSlowly true])).answer .sessionShouldBreak).yes) = false := by decide
theorem test_witness_StoppedLoop_break :
    (stopped true []).Observing ∧ (stopped true []).sf.stop = true ∧ (stopped true []).sf.doint = false ∧
      (stopped true []).sf.int = false ∧ (stopped true []).sf.brk = true := by decide
theorem test_witness_StoppedLoop_asleep :
    asleep.Observing ∧ asleep.sf.stop = true ∧ asleep.sf.doint = false ∧ asleep.sf.int = false ∧
      asleep.wakeCalls.drop 5 = [.setActive .fuzz false, .setActive .playback false, .setActive .minimize false,
        .postPowerButton true, .postPowerButton false, .setActive .fuzz false, .setActive .playback true,
        .setActive .minimize false] := by decide
/-- TV38: a pass with STOP set, DOTRACE held back; nothing to serve. -/
theorem test_witness_StoppedLoop_pass :
    ∃ s : State, s.Observing ∧ s.nested = false ∧ s.sf.stop = true ∧ s.sf.dotrace = true ∧ s.sf.eoc = true ∧
      s.cfg.scEval = .sequential ∧ (s.answer (.onEndOfCycle false)).yes = false ∧ s.passIdled.CanServe ∧
      (s.idled s.wakeCalls).CanServe :=
  ⟨passOf { SpecialFlags.none with dotrace := true, stop := true, eoc := true } 7 [], by decide, by decide, by decide,
    by decide, by decide, by decide, by decide, fun h => absurd h (by decide), fun h => absurd h (by decide)⟩
/-- A level above the mask comes up in the tick and is served. -/
theorem test_witness_StoppedLoop_serves :
    ∃ s : State, s.Observing ∧ s.sf.stop = true ∧ (s.idled s.wakeCalls).serves = true ∧
      (s.idled s.wakeCalls).levelRead = some 4 ∧ (s.idled s.wakeCalls).CanServe :=
  ⟨{ serving 4 with sf := { SpecialFlags.none with doint := true, stop := true } }, by decide, by decide, by decide,
    by decide, fun _ l hl _ => by
      cases (show some 4 = some l from hl)
      exact ⟨by decide, 28, by decide, by decide⟩⟩
theorem test_witness_IdleStep :
    idling.port = [] ∧ idling.acts = .idle .loop :: [] ∧ idling.Observing ∧ idling.sf.stop = true ∧
      idling.sf.doint = false ∧ idling.sf.int = false ∧ (idling.sf.brk || ((idling.calledAll [.delay, .onCycle true,
        .onCycleSlowly true]).answer .sessionShouldBreak).yes) = false := by decide
theorem test_witness_IdleStep_break :
    ∃ s : State, s.port = [] ∧ s.acts = .idle .loop :: [] ∧ s.Observing ∧ s.sf.stop = true ∧ s.sf.doint = false ∧
      s.sf.int = false ∧ (s.sf.brk || ((s.calledAll [.delay, .onCycle true,
        .onCycleSlowly true]).answer .sessionShouldBreak).yes) = true :=
  ⟨{ idling with answers := [(.sessionShouldBreak, doing [] true)] }, by decide⟩
theorem test_witness_IdleStep_check :
    ∃ s : State, s.port = [] ∧ s.acts = .idle .loop :: [] ∧ s.Observing ∧ (s.idled []).serves = true ∧
      (s.idled []).CanServe :=
  ⟨{ serving 7 with acts := [.idle .loop], sf := { SpecialFlags.none with doint := true, stop := true } }, by decide,
    by decide, by decide, by decide, fun _ l hl _ => by
      cases (show some 7 = some l from hl)
      exact ⟨by decide, 31, by decide, by decide⟩⟩
theorem test_witness_IdleStep_entered_stopped :
    ∃ s : State, s.port = [] ∧ s.acts = .check :: [] ∧ s.Observing ∧ s.nested = false ∧ s.sf.stop = true ∧
      s.sf.eoc = false ∧ s.passIdled.CanServe :=
  ⟨{ stopped true [] with acts := [.check] }, by decide, by decide, by decide, by decide, by decide, by decide,
    fun h => absurd h (by decide)⟩
theorem test_witness_IdleStep_nested :
    ∃ s : State, s.port = [] ∧ s.acts = .check :: [] ∧ s.Observing ∧ s.nested = true ∧ s.sf.stop = true :=
  ⟨{ stopped false [] with acts := [.check], nested := true }, by decide⟩
theorem test_witness_IdleCheck :
    ∃ s : State, s.Observing ∧ s.sf.doint = true ∧ (s.answer .kernelStackOverflowed).yes = false ∧
      ((s.called .kernelStackOverflowed).answer .currentInterruptLevel).level = some 4 ∧ s.regs.imask.toNat < 4 ∧
      (((s.called .kernelStackOverflowed).called .currentInterruptLevel).called .interruptVectorBase).CanTake 28 :=
  ⟨{ serving 4 with sf := { SpecialFlags.none with doint := true, stop := true } }, by decide⟩

theorem test_witness_Reset :
    base.nested = false ∧ base.ctx = .host ∧ base.acts = [] ∧ base.Observing ∧ base.PermitsFull base.cfg.romBase ∧
      base.PermitsFull (base.cfg.romBase + 4) := by decide
theorem test_witness_Reset_session :
    ∃ s : State, s.nested = false ∧ s.ctx = .session ∧ s.acts ≠ [] ∧ s.Observing ∧ s.PermitsFull s.cfg.romBase :=
  ⟨{ running with ctx := .session }, by decide⟩
theorem test_witness_ResetRefusals_place :
    (∃ s : State, s.nested = true) ∧ (∃ s : State, s.nested = false ∧ s.ctx = .handler) ∧
      ∃ s : State, s.nested = false ∧ s.ctx = .hook ∧ s.acts ≠ [] :=
  ⟨⟨{ base with nested := true }, rfl⟩, ⟨{ running with ctx := .handler }, by decide⟩,
    ⟨{ running with ctx := .hook }, by decide⟩⟩
theorem test_witness_ResetRefusals_vector :
    ∃ s : State, s.nested = false ∧ s.ctx = .host ∧ s.acts = [] ∧ s.PermitsFull s.cfg.romBase ∧
      ¬ s.PermitsFull (s.cfg.romBase + 4) :=
  ⟨{ base with cfg := { base.cfg with romBase := 0x000FFFFC } }, by decide⟩
theorem test_witness_ResetRefusals_validator :
    (rejecting base 0).Silent ∧ (rejecting base 0).word ((rejecting base 0).cfg.romBase + 4) = 0 ∧
      (rejecting base 0).validatorFault 0 = some validating ∧
      ((rejecting base base.regs.pc).answer (.checkNewPC base.regs.pc)).fault = some validating := by decide
theorem test_witness_MemoryPort : base.mem.wf = true ∧ base.Permits 0x000FFFFC .four .write := by decide
theorem test_witness_FaultingAccess :
    base.cfg.policy.rejections = [] ∧ base.cfg.policy.checkOdd = true ∧ (1 : Word).getLsbD 0 = true ∧
      (0x100000 : Word).getLsbD 0 = false ∧
      ∀ r ∈ base.cfg.policy.mapped, r.size ≤ ((0x100000 : Word) + BitVec.ofNat 32 0 - r.base).toNat := by decide
/-- The last byte of a 32-bit access lies past the end of memory, its first does not. -/
theorem test_witness_FaultingAccess_later_byte :
    ∃ k, k < 4 ∧ (0xFFFFE : Word).getLsbD 0 = false ∧ base.cfg.policy.mapped.any (fun r => r.contains 0xFFFFE) = true ∧
      ∀ r ∈ base.cfg.policy.mapped, r.size ≤ ((0xFFFFE : Word) + BitVec.ofNat 32 k - r.base).toNat :=
  ⟨3, by decide⟩
theorem test_witness_StepKeepsInvariants :
    ∃ s t : State, s.FormInv ∧ s.SequencingInv ∧ step s = .next t :=
  ⟨running, _, by decide, by decide, by rfl⟩
theorem test_witness_StepKeepsForm_masked :
    ∃ s t : State, s.FormInv ∧ s.HandlersKeepSRMasked ∧ s.SRMasked ∧ step s = .next t := by
  refine ⟨{ running with answers := [(.handler 0x7005, { Answer.quiet with body := [.writeCell .sr 0x2004] })] }, _,
    by decide, ?_, by decide, by rfl⟩
  intro e he v hv
  cases List.mem_singleton.1 he
  cases List.mem_singleton.1 hv
  decide
theorem test_witness_idling_SequencingInv : idling.SequencingInv ∧ idling.acts ≠ [] := by decide

end Sys2Proof.Tests
end

section
/-! PROOF. Reset (spec 70 section 1, 10 R32): what `reset(true)` and `reset(false)` do where they are allowed and the
environment only observes and replies. -/

namespace Sys2Proof.Machine

/-- The state in which a hardware reset has written its table, the PC not yet installed (spec 70 R201, 10 R32). -/
def State.resetTable (s : State) : State :=
  { s with
    cyc := 0
    lta := none
    frec := none
    iter := 0
    regs := hardwareResetFile s.regs (s.word s.cfg.romBase)
    sf := SpecialFlags.none }

/-- The initial PC of the reset vector (spec 70 R201). -/
def State.resetPC (s : State) : Word :=
  s.word (s.cfg.romBase + 4)

/-- A hardware reset keeps D, A[0..6], USP and SSP of the old register file; every other cell is as right after reset
(10 R32). -/
theorem hardwareResetFile_withPC (r : RegFile) (sp0 pc0 : Word) :
    { hardwareResetFile r sp0 with pc := pc0 } =
      { RegFile.reset with d := r.d, a := r.a.set 7 sp0, pc := pc0, usp := r.usp, ssp := r.ssp } := rfl

/-- Where reset may be called (spec 70 R200). -/
theorem resetAllowed_iff (s : State) :
    resetAllowed s = true ↔ s.nested = false ∧ s.ctx ≠ .handler ∧ (s.acts = [] ∨ s.ctx = .session) := by
  simp [resetAllowed, and_assoc]

/-- With the reset vector readable, a hardware reset writes its table and goes on as `SetPC` (spec 70 R201). -/
theorem hardwareReset_permitted (run : Runner) {s : State} (hsp : s.PermitsFull s.cfg.romBase)
    (hpc : s.PermitsFull (s.cfg.romBase + 4)) :
    hardwareReset run s = setPC run s.resetPC s.resetTable := by
  simp only [hardwareReset, memReadFullWord_permitted hsp, memReadFullWord_permitted hpc, Run.andThen_ok]
  rfl

/-- The validation of a PC in an observing environment: the call alone. -/
theorem checkNewPC_observing (run : Runner) (addr : Word) {s : State} (h : s.Observing) :
    checkNewPC run addr s = .ok () (s.called (.checkNewPC addr)) := by
  simp only [checkNewPC, envCall_observing run _ h, Run.andThen_ok, h.fault_answer]

/-- An allowed hardware reset with a readable vector: the table, the calls of `SetPC`, the PC installed (spec 70 R201). -/
theorem exec_hardwareReset {s : State} (hallow : resetAllowed s = true) (hobs : s.Observing)
    (hsp : s.PermitsFull s.cfg.romBase) (hpc : s.PermitsFull (s.cfg.romBase + 4)) :
    exec (.reset true) s = .next ((s.resetTable.calledAll (s.setPCCalls s.resetPC)).putPC s.resetPC) := by
  have hset := setPC_observing s.runner s.resetPC (s := s.resetTable) (hobs.congr rfl)
  change (opReset s.runner true s).outcome s = _
  rw [opReset, if_pos hallow, if_pos rfl, hardwareReset_permitted s.runner hsp hpc, hset]
  rfl

/-- An allowed soft reset: CYC and LTA cleared and the PC validated (spec 70 R202). -/
theorem exec_softReset {s : State} (hallow : resetAllowed s = true) (hobs : s.Observing) :
    exec (.reset false) s = .next (({ s with cyc := 0, lta := none } : State).called (.checkNewPC s.regs.pc)) := by
  have hcheck := checkNewPC_observing s.runner s.regs.pc (s := { s with cyc := 0, lta := none }) (hobs.congr rfl)
  change (opReset s.runner false s).outcome s = _
  rw [opReset, if_pos hallow, if_neg Bool.false_ne_true, softReset, hcheck]
  rfl

/-- Installing a PC commutes with leaving the environment's bookkeeping out. -/
theorem State.putPC_machine (s : State) (pc : Word) : (s.putPC pc).machine = s.machine.putPC pc := rfl

/-- The machine of a hardware reset, cell by cell (10 R32). -/
theorem State.resetTable_putPC_machine (s : State) :
    s.resetTable.machine.putPC s.resetPC =
      { s with
        regs := { RegFile.reset with
          d := s.regs.d
          a := s.regs.a.set 7 (s.word s.cfg.romBase)
          pc := s.resetPC
          usp := s.regs.usp
          ssp := s.regs.ssp }
        sf := SpecialFlags.none
        cyc := 0
        lta := none
        frec := none
        iter := 0 }.machine :=
  congrArg (fun r => { s.resetTable.machine with regs := r }) (hardwareResetFile_withPC s.regs _ s.resetPC)

/-- Settles O54: each reset completes by its equation, and its machine and its calls are read off the next state. -/
theorem resetWritesItsTable : Obligations.ResetWritesItsTable := by
  intro s hnested hctx hplace hobs
  have hallow : resetAllowed s = true := (resetAllowed_iff s).2 ⟨hnested, hctx, hplace⟩
  refine ⟨fun hsp hpc => ⟨_, exec_hardwareReset hallow hobs hsp hpc, ?machine, ?calls⟩,
    _, exec_softReset hallow hobs, rfl, rfl⟩
  case machine =>
    rw [State.putPC_machine, State.calledAll_machine]
    exact s.resetTable_putPC_machine
  case calls =>
    rw [State.putPC_calls, State.calledAll_calls, State.setPCCalls, List.reverse_append]
    rfl

/-- Settles O56: a hardware reset of `State.reset` reads a blank vector, so the table and the PC it writes are those that
stand there already; the invariants are facts of this one state. -/
theorem resetStateIsRightAfterReset : Obligations.ResetStateIsRightAfterReset := by
  have hreset := exec_hardwareReset (s := State.reset) (by decide) (by decide) (by decide) (by decide)
  have hsame : (State.reset.resetTable.calledAll (State.reset.setPCCalls State.reset.resetPC)).putPC
      State.reset.resetPC = { State.reset with calls := [.checkNewPC 0] } := by decide
  exact ⟨hreset.trans (congrArg _ hsame), by decide⟩

end Sys2Proof.Machine
end

section
/-! PROOF. Memory (spec 20): the bytes and halves of a 32-bit store (R42), and the accesses the default policy rejects
(R43, R44). -/

namespace Sys2Proof.Machine

/-! ## A 32-bit store, part by part -/

/-- The first half read after a 32-bit store is the most significant one (spec 20 R42). -/
theorem State.half_setWord_hi {s : State} (h : s.mem.wf = true) (a v : Word) :
    (s.setWord a v).half a = v.extractLsb' 16 16 := by
  unfold State.setWord
  rw [State.half_setHalf_other _ (by bv_omega) (by bv_omega) (by bv_omega) (by bv_omega), State.half_setHalf_same h]

/-- The second half read after a 32-bit store is the least significant one (spec 20 R42). -/
theorem State.half_setWord_lo {s : State} (h : s.mem.wf = true) (a v : Word) :
    (s.setWord a v).half (a + 2) = v.extractLsb' 0 16 :=
  State.half_setHalf_same (State.setHalf_wf h _ _) _ _

/-- The byte at an address is the upper byte of the half there (spec 20 R42). -/
theorem State.byte_eq_half_hi (s : State) (a : Word) : s.byte a = (s.half a).extractLsb' 8 8 := by
  unfold State.half halfOfBytes
  exact BitVec.extractLsb'_append_eq_left.symm

/-- The byte after an address is the lower byte of the half there (spec 20 R42). -/
theorem State.byte_eq_half_lo (s : State) (a : Word) : s.byte (a + 1) = (s.half a).extractLsb' 0 8 := by
  unfold State.half halfOfBytes
  exact BitVec.extractLsb'_append_eq_right.symm

/-- A part of a part of a word is a part of the word. -/
theorem extractLsb'_extractLsb' {w start len start' len' : Nat} (h : start + len ≤ len') (x : BitVec w) :
    (x.extractLsb' start' len').extractLsb' start len = x.extractLsb' (start' + start) len := by
  ext i hi
  have hinner : start + i < len' := by omega
  simp [hinner, Nat.add_assoc]

/-- A 32-bit store changes nothing but memory. -/
theorem State.setWord_frame (s : State) (a v : Word) : { s.setWord a v with mem := s.mem } = s := rfl

/-- Settles O57: a permitted write is the store; its halves read back, and each byte is the upper or lower byte of a half. -/
theorem memoryPortIsBigEndian : Obligations.MemoryPortIsBigEndian := by
  intro s a v hwf hpermits
  have hhi := State.half_setWord_hi hwf a v
  have hlo := State.half_setWord_lo hwf a v
  have hthird : a + 3 = a + 2 + 1 := by bv_omega
  refine ⟨s.setWord a v, memWriteWord_permitted hpermits v, ?_, ?_, ?_, ?_, hhi, hlo,
    fun c hc => State.byte_setWord_other s hc v, State.setWord_frame s a v⟩
  · rw [State.byte_eq_half_hi, hhi, extractLsb'_extractLsb' (by decide)]
  · rw [State.byte_eq_half_lo, hhi, extractLsb'_extractLsb' (by decide)]
  · rw [State.byte_eq_half_hi, hlo, extractLsb'_extractLsb' (by decide)]
  · rw [hthird, State.byte_eq_half_lo, hlo, extractLsb'_extractLsb' (by decide)]

/-! ## The accesses the default policy rejects -/

/-- An access is misaligned when its address is odd and it is wider than a byte (spec 20 R43). -/
theorem misaligned_iff {a : Word} {size : AccessSize} :
    misaligned a size = true ↔ size ≠ .one ∧ a.getLsbD 0 = true := by
  simp [misaligned]

/-- An access is not wholly mapped when one of its bytes lies in no region (spec 20 R43). -/
theorem mapsAll_eq_false_iff {p : MemPolicy} {a : Word} {size : AccessSize} :
    p.mapsAll a size = false ↔
      ∃ k, k < size.bytes ∧ ∀ r ∈ p.mapped, r.size ≤ (a + BitVec.ofNat 32 k - r.base).toNat := by
  simp [MemPolicy.mapsAll, Region.contains]

/-- The verdict of the default policy: the odd address before the unmapped byte (spec 20 R43, log 20). -/
theorem verdict_default {p : MemPolicy} (hrej : p.rejections = []) (hodd : p.checkOdd = true) (a : Word)
    (size : AccessSize) (dir : Dir) :
    p.verdict a size dir =
      if misaligned a size then some .address else if p.mapsAll a size = false then some .bus else none := by
  simp [MemPolicy.verdict, MemPolicy.oddOrUnmapped, hrej, hodd]

/-- A rejected access ends in a memory fault with the state as before (spec 20 R44). -/
theorem access_rejected {s : State} {a : Word} {size : AccessSize} {dir : Dir} {kind : FaultKind}
    (h : s.cfg.policy.verdict a size dir = some kind) :
    access a size dir s = .abort { kind := kind, addr := a, size := size, dir := dir } s := by
  unfold access
  rw [h]

/-- Settles O58: by the verdict of the default policy, an odd address in the first case, an even one or a byte access with
an unmapped byte in the second. -/
theorem faultingAccessTransfersNothing : Obligations.FaultingAccessTransfersNothing := by
  intro s a size dir hrej hodd
  have hverdict := verdict_default hrej hodd a size dir
  constructor
  · intro hwide haddr
    rw [if_pos (misaligned_iff.2 ⟨hwide, haddr⟩)] at hverdict
    exact access_rejected hverdict
  · intro haligned ⟨k, hk, hunmapped⟩
    have hmis : ¬ misaligned a size = true := by
      rw [misaligned_iff]
      rintro ⟨hwide, haddr⟩
      exact haligned.elim hwide (by simp [haddr])
    have hbytes : k < size.bytes := by cases size <;> exact hk
    have hmaps := mapsAll_eq_false_iff.2 ⟨k, hbytes, hunmapped⟩
    rw [if_neg hmis, if_pos hmaps] at hverdict
    exact access_rejected hverdict

end Sys2Proof.Machine
end

section
/-! PROOF. Encoding (spec 30 R60 to R62, R73, R77): the default table and the encoder are inverse to each other. -/

namespace Sys2Proof

/-! ## The words with a row of their own -/

/-- Masking the low bits away leaves the test of the high ones. -/
theorem and_highMask_eq_iff {n k : Nat} (op : BitVec (n + k)) (high : BitVec n) :
    op &&& (BitVec.allOnes n ++ 0#k) = high ++ 0#k ↔ op.extractLsb' k n = high := by
  have hmask : op &&& (BitVec.allOnes n ++ 0#k) = op.extractLsb' k n ++ 0#k := by
    conv_lhs => rw [← BitVec.extractLsb'_append_extractLsb' (x := op), BitVec.and_append]
    rw [BitVec.and_allOnes, BitVec.and_zero]
  rw [hmask, BitVec.append_left_inj]

/-- The masks of the table of spec 30 R77 and the tests of the decoder pick out the same words. -/
theorem isNamedWord_iff (op : Half) :
    isNamedWord op = true ↔
      op.extractLsb' 4 12 = 0x4E4 ∨ op.extractLsb' 3 13 = 0x9CA ∨ op.extractLsb' 6 10 = 0x13A ∨ op = 0x4E71 ∨
        op = 0x4E72 ∨ op = 0x4E73 ∨ op = 0x4E75 ∨ op = 0x4E76 ∨ op = 0x4AFC ∨ op = 0x3039 := by
  have hwhole : op &&& 0xFFFF = op := BitVec.and_allOnes
  have htrap : op &&& 0xFFF0 = 0x4E40 ↔ op.extractLsb' 4 12 = 0x4E4 := and_highMask_eq_iff (n := 12) (k := 4) op 0x4E4
  have hlink : op &&& 0xFFF8 = 0x4E50 ↔ op.extractLsb' 3 13 = 0x9CA := and_highMask_eq_iff (n := 13) (k := 3) op 0x9CA
  have hjsr : op &&& 0xFFC0 = 0x4E80 ↔ op.extractLsb' 6 10 = 0x13A := and_highMask_eq_iff (n := 10) (k := 6) op 0x13A
  simp only [isNamedWord, namedWords, WordPattern.covers, List.any_cons, List.any_nil, Bool.or_eq_true, beq_iff_eq,
    hwhole, htrap, hlink, hjsr, Bool.false_eq_true, or_false]
  exact Eq.to_iff (by ac_rfl)

/-- A word is its high bits followed by its low bits. -/
theorem high_append_low {n k : Nat} {op : BitVec (n + k)} {high : BitVec n} (h : op.extractLsb' k n = high) :
    high ++ op.extractLsb' 0 k = op :=
  h ▸ BitVec.extractLsb'_append_extractLsb'

/-- The high bits of a word followed by the bits below them are a longer run of high bits. -/
theorem high_append_middle {n m k : Nat} {op : BitVec (n + m + k)} {high : BitVec n}
    (h : op.extractLsb' (k + m) n = high) : op.extractLsb' k (n + m) = high ++ op.extractLsb' k m := by
  rw [← h, BitVec.extractLsb'_append_extractLsb'_eq_extractLsb' rfl]

/-- The line of a word is the top nibble of its high bits. -/
theorem lineOf_of_high {op : Half} {k n : Nat} {high : BitVec n} (h : op.extractLsb' k n = high)
    (hk : 12 - k + 4 ≤ n) (hle : k ≤ 12) : lineOf op = high.extractLsb' (12 - k) 4 := by
  rw [← h, Machine.extractLsb'_extractLsb' hk, Nat.add_sub_cancel' hle]
  rfl

/-- Every word with a row of its own lies in line 3 or 4, so none is a line-A or line-F word (spec 30 R77). -/
theorem lineOf_of_named {op : Half} (h : isNamedWord op = true) : lineOf op = 3 ∨ lineOf op = 4 := by
  rcases (isNamedWord_iff op).1 h with htrap | hlink | hjsr | rfl | rfl | rfl | rfl | rfl | rfl | rfl
  · exact .inr (lineOf_of_high htrap (by decide) (by decide))
  · exact .inr (lineOf_of_high hlink (by decide) (by decide))
  · exact .inr (lineOf_of_high hjsr (by decide) (by decide))
  all_goals decide

/-! ## The two fields of a word -/

@[simp] theorem lineOf_append (line : BitVec 4) (rest : BitVec 12) : lineOf (line ++ rest) = line :=
  BitVec.extractLsb'_append_eq_left

@[simp] theorem restOf_append (line : BitVec 4) (rest : BitVec 12) : restOf (line ++ rest) = rest :=
  BitVec.extractLsb'_append_eq_right

@[simp] theorem lineOf_append_restOf (op : Half) : lineOf op ++ restOf op = op :=
  BitVec.extractLsb'_append_extractLsb' (w := 4) (len := 12)

/-! ## The default table -/

/-- The row of the illegal handler for a word, by its line (spec 30 R61). -/
def illegalRow (op : Half) : Instr :=
  if lineOf op = 0xA then .illegalLineA (restOf op)
  else if lineOf op = 0xF then .illegalLineF (restOf op)
  else .illegalOther (lineOf op) (restOf op)

/-- A word without a row of its own has the illegal handler in its slot (spec 95 section 3.1). -/
theorem decodeWord_unnamed {op : Half} (h : isNamedWord op = false) : decodeWord op = illegalRow op := by
  have hnot := (isNamedWord_iff op).not.1 (by simp [h])
  simp only [not_or] at hnot
  obtain ⟨htrap, hlink, hjsr, hnop, hstop, hrte, hrts, htrapv, hillegal, hmove⟩ := hnot
  unfold decodeWord
  rw [if_neg hnop, if_neg hstop, if_neg hrte, if_neg hrts, if_neg htrapv, if_neg htrap, if_neg hlink, if_neg hjsr,
    if_neg hillegal, if_neg hmove]
  rfl

/-- A word outside lines 3 and 4 has the illegal handler in its slot. -/
theorem decodeWord_append_unnamed {line : BitVec 4} {rest : BitVec 12} (h3 : line ≠ 3) (h4 : line ≠ 4) :
    decodeWord (line ++ rest) = illegalRow (line ++ rest) := by
  refine decodeWord_unnamed (Bool.eq_false_iff.2 fun hnamed => ?_)
  have hline := lineOf_of_named hnamed
  rw [lineOf_append] at hline
  exact hline.elim h3 h4

/-- The 16 words of TRAP. -/
theorem decodeWord_trap : ∀ n : BitVec 4, decodeWord ((0x4E4 : BitVec 12) ++ n) = .trap n := by decide

/-- The 8 words of LINK. -/
theorem decodeWord_link : ∀ an : BitVec 3, decodeWord ((0x9CA : BitVec 13) ++ an) = .link an := by decide

/-- The 64 words of JSR. -/
theorem decodeWord_jsr :
    ∀ eaMode eaReg : BitVec 3, decodeWord ((0x13A : BitVec 10) ++ eaMode ++ eaReg) = .jsr eaMode eaReg := by decide

/-- The instruction is the row of the word: an opcode-word row, well-formed, other than DISPATCH, with this encoding. -/
def IsRowOf (i : Instr) (op : Half) : Prop :=
  encodeWord i = some op ∧ i.wellFormed = true ∧ i.isOpcodeWord = true ∧ ∀ op', i ≠ .dispatch op'

/-- A word without a row of its own is a word of the illegal handler's row for its line. -/
theorem illegalRow_isRowOf {op : Half} (h : isNamedWord op = false) : IsRowOf (illegalRow op) op := by
  have hsplit := lineOf_append_restOf op
  unfold illegalRow
  split_ifs with hA hF
  · exact ⟨congrArg some (hA ▸ hsplit), rfl, rfl, nofun⟩
  · exact ⟨congrArg some (hF ▸ hsplit), rfl, rfl, nofun⟩
  · exact ⟨congrArg some hsplit, by simp_all [Instr.wellFormed], rfl, nofun⟩

/-- The slot of a word holds a row of that word. -/
theorem decodeWord_isRowOf (op : Half) : IsRowOf (decodeWord op) op := by
  cases hnamed : isNamedWord op with
  | false => exact decodeWord_unnamed hnamed ▸ illegalRow_isRowOf hnamed
  | true =>
    rcases (isNamedWord_iff op).1 hnamed with htrap | hlink | hjsr | rfl | rfl | rfl | rfl | rfl | rfl | rfl
    · rw [← high_append_low htrap, decodeWord_trap]
      exact ⟨rfl, rfl, rfl, nofun⟩
    · rw [← high_append_low hlink, decodeWord_link]
      exact ⟨rfl, rfl, rfl, nofun⟩
    · have hmode : op.extractLsb' 3 13 = (0x13A : BitVec 10) ++ op.extractLsb' 3 3 :=
        high_append_middle (n := 10) (m := 3) (k := 3) hjsr
      rw [← high_append_low hmode, decodeWord_jsr]
      exact ⟨rfl, rfl, rfl, nofun⟩
    all_goals exact ⟨rfl, rfl, rfl, nofun⟩

/-- A word has no other row than that of its slot. -/
theorem IsRowOf.decodeWord_eq {i : Instr} {op : Half} (h : IsRowOf i op) : decodeWord op = i := by
  obtain ⟨henc, hwf, hop, hdispatch⟩ := h
  cases i with
  | dispatch w => exact absurd rfl (hdispatch w)
  | illegalLineA rest =>
    cases henc
    rw [decodeWord_append_unnamed (by decide) (by decide)]
    simp [illegalRow]
  | illegalLineF rest =>
    cases henc
    rw [decodeWord_append_unnamed (by decide) (by decide)]
    simp [illegalRow]
  | illegalOther line rest =>
    cases henc
    simp only [Instr.wellFormed, Bool.and_eq_true, bne_iff_ne, Bool.not_eq_true'] at hwf
    obtain ⟨⟨hA, hF⟩, hnamed⟩ := hwf
    rw [decodeWord_unnamed hnamed, illegalRow, lineOf_append, if_neg hA, if_neg hF, restOf_append]
  | trap n => cases henc; exact decodeWord_trap n
  | link an => cases henc; exact decodeWord_link an
  | jsr eaMode eaReg => cases henc; exact decodeWord_jsr eaMode eaReg
  | nop | stop | rte | rts | trapv | illegal | moveWAbsLD0 => cases henc; rfl
  | _ => exact absurd hop Bool.false_ne_true

/-- An opcode-word instruction has an encoding (spec 30 R62). -/
theorem encodeWord_of_isOpcodeWord {i : Instr} (h : i.isOpcodeWord = true) : ∃ op, encodeWord i = some op := by
  cases i with
  | dispatch | illegalLineA | illegalLineF | illegalOther | nop | stop | rte | rts | trapv | trap | link | jsr | illegal
  | moveWAbsLD0 => exact ⟨_, rfl⟩
  | _ => exact absurd h Bool.false_ne_true

/-- Decoding reads the two bytes of an opcode word and leaves the rest (spec 30 R62). -/
theorem decode_halfBytes (op : Half) (rest : List Byte) : decode (halfBytes op ++ rest) = .ok (decodeWord op, rest) := by
  change Except.ok (decodeWord (halfOfBytes _ _), rest) = _
  rw [Machine.halfOfBytes_extract]

/-- Decoding the encoding of a row. -/
theorem IsRowOf.decode_encode {i : Instr} {op : Half} (h : IsRowOf i op) (rest : List Byte) :
    decode (encode i ++ rest) = .ok (i, rest) := by
  have hword : encodeWord i = some op := h.1
  rw [encode, hword]
  exact (decode_halfBytes op rest).trans (by rw [h.decodeWord_eq])

/-- Settles O1: a well-formed opcode-word instruction is a row of the word it encodes to. -/
theorem decodeOfEncodeIsInstruction : Obligations.DecodeOfEncodeIsInstruction := by
  intro i rest hwf hop hdispatch
  obtain ⟨op, henc⟩ := encodeWord_of_isOpcodeWord hop
  exact IsRowOf.decode_encode ⟨henc, hwf, hop, hdispatch⟩ rest

/-- Settles O2: the slot of a word holds a row of that word. -/
theorem encodeOfDecodeIsWord : Obligations.EncodeOfDecodeIsWord := decodeWord_isRowOf

/-- Settles O3: each word written out is the encoding of its row, and one byte is no word. -/
theorem namedWordsDecode : Obligations.NamedWordsDecode :=
  ⟨decodeOfEncodeIsInstruction .nop [] rfl rfl nofun, decodeOfEncodeIsInstruction .stop [0x20, 0x00] rfl rfl nofun,
    decodeOfEncodeIsInstruction .rte [] rfl rfl nofun, decodeOfEncodeIsInstruction (.trap 15) [] rfl rfl nofun,
    decodeOfEncodeIsInstruction (.link 6) [] rfl rfl nofun, decodeOfEncodeIsInstruction (.jsr 7 1) [] rfl rfl nofun,
    decodeOfEncodeIsInstruction .illegal [] rfl rfl nofun, decodeOfEncodeIsInstruction .moveWAbsLD0 [] rfl rfl nofun,
    decodeOfEncodeIsInstruction (.illegalLineA 0x123) [] rfl rfl nofun,
    decodeOfEncodeIsInstruction (.illegalLineF 0x001) [] rfl rfl nofun,
    decodeOfEncodeIsInstruction (.illegalOther 0x9 0xFFF) [] rfl rfl nofun, rfl⟩

end Sys2Proof
end

section
/-! PROOF. What stops an exception or an interrupt (spec 60 R172, R174; 30 R68, R69). -/

namespace Sys2Proof.Machine

/-! ## Operations that complete or are cut short -/

/-- The operation completes with `P` in the state in which it ends, or is cut short by a memory fault. -/
def Run.CompletesOrAborts {α : Type} (P : State → Prop) : Run α → Prop
  | .ok _ s => P s
  | .abort _ _ => True
  | .unfinished => False
  | .fault _ => False
  | .refused _ => False

section
variable {α β : Type} {P Q : State → Prop}

theorem Run.CompletesOrAborts.andThen {r : Run α} {f : α → State → Run β} (hr : r.CompletesOrAborts P)
    (hf : ∀ a s, P s → (f a s).CompletesOrAborts Q) : (r.andThen f).CompletesOrAborts Q := by
  cases r with
  | ok a s => exact hf a s hr
  | abort m s => trivial
  | unfinished => exact hr
  | fault e => exact hr
  | refused e => exact hr

theorem Run.CompletesOrAborts.imp {r : Run α} (hr : r.CompletesOrAborts P) (h : ∀ s, P s → Q s) :
    r.CompletesOrAborts Q := by
  cases r with
  | ok a s => exact h s hr
  | abort m s => trivial
  | unfinished => exact hr
  | fault e => exact hr
  | refused e => exact hr

/-- An operation that cannot complete is the double fault where a memory fault is refused (spec 60 R172). -/
theorem Run.CompletesOrAborts.noAbort {r : Run α} (hr : r.CompletesOrAborts fun _ => False) :
    r.noAbort = .refused .doubleFault := by
  cases r with
  | ok a s => exact hr.elim
  | abort m s => rfl
  | unfinished => exact hr.elim
  | fault e => exact hr.elim
  | refused e => exact hr.elim

end

/-! ## Pushing a frame and reading the vector -/

/-- The registers and the parameters are the same: all that the accesses of an exception entry look at. -/
def State.SameRegs (s t : State) : Prop :=
  t.regs = s.regs ∧ t.cfg = s.cfg

theorem State.SameRegs.trans {s t u : State} (h : s.SameRegs t) (h' : t.SameRegs u) : s.SameRegs u :=
  ⟨h'.1.trans h.1, h'.2.trans h.2⟩

theorem State.Permits.of_cfg {s t : State} {a : Word} {n : AccessSize} {d : Dir} (h : t.Permits a n d)
    (hcfg : t.cfg = s.cfg) : s.Permits a n d := by
  rwa [State.Permits, hcfg] at h

theorem access_completes (s : State) (a : Word) (n : AccessSize) (d : Dir) :
    (access a n d s).CompletesOrAborts fun t => t = s ∧ s.Permits a n d := by
  unfold access
  split
  · trivial
  · exact ⟨rfl, ‹_›⟩

/-- A 16-bit write that completes was permitted (spec 20 R44). -/
theorem memWriteHalf_completes (s : State) (a : Word) (v : Half) :
    (memWriteHalf a v s).CompletesOrAborts fun t => s.SameRegs t ∧ s.Permits a .two .write :=
  (access_completes s a .two .write).andThen fun | _, _, ⟨rfl, hpermits⟩ => ⟨⟨rfl, rfl⟩, hpermits⟩

/-- A 32-bit write that completes was permitted (spec 20 R44). -/
theorem memWriteWord_completes (s : State) (a : Word) (v : Word) :
    (memWriteWord a v s).CompletesOrAborts fun t => s.SameRegs t ∧ s.Permits a .four .write :=
  (access_completes s a .four .write).andThen fun | _, _, ⟨rfl, hpermits⟩ => ⟨⟨rfl, rfl⟩, hpermits⟩

/-- A full-access read that completes was permitted (spec 20 R44, R50). -/
theorem memReadFullWord_completes (s : State) (a : Word) :
    (memReadFullWord a s).CompletesOrAborts fun _ => s.PermitsFull a := by
  unfold memReadFullWord
  split
  · trivial
  · assumption

/-- The accesses of the short frame (spec 30 R66). -/
theorem writeShortFrame_completes (s : State) (sp : Word) :
    (writeShortFrame sp s).CompletesOrAborts fun t =>
      s.SameRegs t ∧ s.Permits sp .two .write ∧ s.Permits (sp + 2) .four .write :=
  (memWriteHalf_completes s sp _).andThen fun _ t ⟨ht, hsr⟩ =>
    (memWriteWord_completes t (sp + 2) _).imp fun _ ⟨hu, hpc⟩ => ⟨ht.trans hu, hsr, hpc.of_cfg ht.2⟩

/-- The accesses of the long frame (spec 30 R67). -/
theorem writeLongFrame_completes (s : State) (sp : Word) :
    (writeLongFrame sp s).CompletesOrAborts fun t =>
      s.SameRegs t ∧ s.Permits sp .two .write ∧ s.Permits (sp + 2) .four .write ∧ s.Permits (sp + 6) .two .write ∧
        s.Permits (sp + 8) .two .write ∧ s.Permits (sp + 10) .four .write :=
  (memWriteHalf_completes s sp 0).andThen fun _ t1 ⟨h1, hp1⟩ =>
    (memWriteWord_completes t1 (sp + 2) 0).andThen fun _ t2 ⟨h2, hp2⟩ =>
      (memWriteHalf_completes t2 (sp + 6) 0).andThen fun _ t3 ⟨h3, hp3⟩ =>
        (memWriteHalf_completes t3 (sp + 8) _).andThen fun _ t4 ⟨h4, hp4⟩ =>
          (memWriteWord_completes t4 (sp + 10) _).imp fun _ ⟨h5, hp5⟩ =>
            ⟨(((h1.trans h2).trans h3).trans h4).trans h5, hp1, hp2.of_cfg h1.2, hp3.of_cfg (h1.trans h2).2,
              hp4.of_cfg ((h1.trans h2).trans h3).2, hp5.of_cfg (((h1.trans h2).trans h3).trans h4).2⟩

/-- Pushing the short frame completes only where its two writes are permitted (spec 60 R164). -/
theorem pushFrame_short_completes {vector : Nat} (s : State) (hl : hasLongFrame vector = false) :
    (pushFrame vector (pushPoint vector s)).CompletesOrAborts fun t =>
      (entryState vector 6 s).SameRegs t ∧ s.Permits (s.entrySP - 6) .two .write ∧
        s.Permits (s.entrySP - 4) .four .write := by
  have hsp := entryState_sp vector 6 s
  have hcfg := entryState_cfg vector 6 s
  have h2 : s.entrySP - 6 + 2 = s.entrySP - 4 := by bv_omega
  have hpush : pushFrame vector (pushPoint vector s) = writeShortFrame (s.entrySP - 6) (entryState vector 6 s) := by
    rw [← hsp]
    unfold pushFrame frameBytes
    rw [hl]
    rfl
  rw [hpush]
  exact (writeShortFrame_completes _ _).imp fun t ⟨ht, hsr, hpc⟩ =>
    ⟨ht, hsr.of_cfg hcfg, (h2 ▸ hpc).of_cfg hcfg⟩

/-- Pushing the long frame completes only where its five writes are permitted (spec 60 R164). -/
theorem pushFrame_long_completes {vector : Nat} (s : State) (hl : hasLongFrame vector = true) :
    (pushFrame vector (pushPoint vector s)).CompletesOrAborts fun t =>
      (entryState vector 14 s).SameRegs t ∧ s.Permits (s.entrySP - 14) .two .write ∧
        s.Permits (s.entrySP - 12) .four .write ∧ s.Permits (s.entrySP - 8) .two .write ∧
          s.Permits (s.entrySP - 6) .two .write ∧ s.Permits (s.entrySP - 4) .four .write := by
  have hsp := entryState_sp vector 14 s
  have hcfg := entryState_cfg vector 14 s
  have h2 : s.entrySP - 14 + 2 = s.entrySP - 12 := by bv_omega
  have h6 : s.entrySP - 14 + 6 = s.entrySP - 8 := by bv_omega
  have h8 : s.entrySP - 14 + 8 = s.entrySP - 6 := by bv_omega
  have h10 : s.entrySP - 14 + 10 = s.entrySP - 4 := by bv_omega
  have hpush : pushFrame vector (pushPoint vector s) = writeLongFrame (s.entrySP - 14) (entryState vector 14 s) := by
    rw [← hsp]
    unfold pushFrame frameBytes
    rw [hl]
    rfl
  rw [hpush]
  refine (writeLongFrame_completes _ _).imp fun t ⟨ht, hp1, hp2, hp3, hp4, hp5⟩ => ?_
  rw [h2] at hp2
  rw [h6] at hp3
  rw [h8] at hp4
  rw [h10] at hp5
  exact ⟨ht, hp1.of_cfg hcfg, hp2.of_cfg hcfg, hp3.of_cfg hcfg, hp4.of_cfg hcfg, hp5.of_cfg hcfg⟩

/-! ## The double fault of an exception (spec 60 R172) -/

/-- An entry is the double fault when the frame can be pushed, if at all, only where the vector cannot be read. -/
theorem enterException_doubleFault (run : Runner) {vector : Nat} {size : Word} {s : State}
    (hpush : (pushFrame vector (pushPoint vector s)).CompletesOrAborts fun t =>
      (entryState vector size s).SameRegs t ∧ ¬ s.PermitsFull (vectorAddress s.regs.vbr vector)) :
    enterException run vector (s.packSR.calledAll (s.hookCalls (.exception vector) (.vector vector))) =
      .refused .doubleFault := by
  refine Run.CompletesOrAborts.noAbort (hpush.andThen fun _ t ⟨hsame, hvec⟩ => ?_)
  have hvbr : t.regs.vbr = s.regs.vbr := by rw [hsame.1, entryState_regs]
  have hcfg : t.cfg = s.cfg := hsame.2.trans (entryState_cfg vector size s)
  refine (memReadFullWord_completes t _).andThen fun _ _ hread => absurd ?_ hvec
  rwa [hvbr, State.PermitsFull, hcfg] at hread

/-- An exception that no hook handles and whose frame does not fit is the double fault. -/
theorem processException_frame_doubleFault (run : Runner) {vector : Nat} {s : State} (hv : vector ≤ 255)
    (hsil : s.Silent) (hh : s.handles vector = false) (hfit : ¬ s.FrameFits vector) :
    processException run vector s = .refused .doubleFault := by
  rw [processException_unhandled run hsil hv hh]
  cases hl : hasLongFrame vector with
  | false =>
    have hshort : ¬ s.ShortFrameFits vector := fun h => hfit ⟨fun h' => by simp [hl] at h', fun _ => h⟩
    exact enterException_doubleFault run ((pushFrame_short_completes s hl).imp fun t ⟨ht, hsr, hpc⟩ =>
      ⟨ht, fun hvec => hshort ⟨hsr, hpc, hvec⟩⟩)
  | true =>
    have hlong : ¬ s.LongFrameFits vector := fun h => hfit ⟨fun _ => h, fun h' => by simp [hl] at h'⟩
    exact enterException_doubleFault run ((pushFrame_long_completes s hl).imp fun t ⟨ht, h1, h2, h3, h4, h5⟩ =>
      ⟨ht, fun hvec => hlong ⟨h1, h2, h3, h4, h5, hvec⟩⟩)

/-- The short frame changes none of the bytes outside it. -/
theorem byte_pushedShort (vector : Nat) (s : State) {a : Word} (h : Outside a (s.entrySP - 6) 6) :
    (pushedShort vector s).byte a = s.byte a := by
  unfold pushedShort
  rw [State.byte_setWord_other _ (h.part (k := 2) (by bv_omega) (by decide)),
    State.byte_setHalf_outside _ (h.part (k := 0) (by bv_omega) (by decide)),
    State.byte_of_mem (entryState_mem _ _ _)]

/-- The long frame changes none of the bytes outside it. -/
theorem byte_pushedLong (vector : Nat) (s : State) {a : Word} (h : Outside a (s.entrySP - 14) 14) :
    (pushedLong vector s).byte a = s.byte a := by
  unfold pushedLong
  rw [State.byte_setWord_other _ (h.part (k := 10) (by bv_omega) (by decide)),
    State.byte_setHalf_outside _ (h.part (k := 8) (by bv_omega) (by decide)),
    State.byte_setHalf_outside _ (h.part (k := 6) (by bv_omega) (by decide)),
    State.byte_setWord_other _ (h.part (k := 2) (by bv_omega) (by decide)),
    State.byte_setHalf_outside _ (h.part (k := 0) (by bv_omega) (by decide)),
    State.byte_of_mem (entryState_mem _ _ _)]

/-- A 32-bit read depends on its four bytes alone. -/
theorem State.word_of_bytes {s t : State} {a : Word}
    (h : ∀ k, k < 4 → t.byte (a + BitVec.ofNat 32 k) = s.byte (a + BitVec.ofNat 32 k)) : t.word a = s.word a := by
  have h0 := h 0 (by decide)
  have h1 := h 1 (by decide)
  have h2 := h 2 (by decide)
  have h3 := h 3 (by decide)
  have hthird : a + 2 + 1 = a + 3 := by bv_omega
  exact State.word_congr (State.half_congr (by simpa using h0) h1) (State.half_congr h2 (hthird ▸ h3))

/-- The validator answers after the push of a frame as it does after the exception hooks: a push touches neither the
answers nor the hooks. -/
theorem validatorFault_pushed {vector : Nat} {size : Word} {s p : State}
    (hp : p = { entryState vector size s with mem := p.mem }) (h : Word) :
    p.validatorFault h = (s.calledAll (s.hookCalls (.exception vector) (.vector vector))).validatorFault h := by
  refine State.validatorFault_congr ?answers ?hooks h
  case answers =>
    rw [hp]
    exact State.calledAll_answers_congr s.packSR_answers _
  case hooks =>
    rw [hp]
    simp [entryState]

/-- An exception whose handler's address the validator rejects by a memory fault is the double fault, the vector lying
outside the frame. -/
theorem processException_validator_doubleFault (run : Runner) {vector : Nat} {s : State} {m : MemFault}
    (hv : vector ≤ 255) (hsil : s.Silent) (hh : s.handles vector = false) (hfit : s.FrameFits vector)
    (hout : ∀ k, k < 4 → Outside (vectorAddress s.regs.vbr vector + BitVec.ofNat 32 k)
      (s.entrySP - frameBytes vector) (frameBytes vector).toNat)
    (hval : (s.calledAll (s.hookCalls (.exception vector) (.vector vector))).validatorFault
      (s.word (vectorAddress s.regs.vbr vector)) = some m) :
    processException run vector s = .refused .doubleFault := by
  unfold frameBytes at hout
  cases hl : hasLongFrame vector with
  | false =>
    rw [hl] at hout
    have hword := State.word_of_bytes fun k hk => byte_pushedShort vector s (hout k hk)
    rw [processException_short_eq run hsil hv hl hh (hfit.2 hl), hword,
      validatorFault_pushed (pushedShort_form vector s), hval]
  | true =>
    rw [hl] at hout
    have hword := State.word_of_bytes fun k hk => byte_pushedLong vector s (hout k hk)
    rw [processException_long_eq run hsil hv hl hh (hfit.1 hl), hword,
      validatorFault_pushed (pushedLong_form vector s), hval]

/-! ## Vectors and levels out of range (spec 30 R68, R69, 60 R174) -/

theorem processException_badVector (run : Runner) {vector : Nat} (s : State) (hv : 255 < vector) :
    processException run vector s = .refused .badVector := if_pos hv

theorem processInterrupt_badLevel (run : Runner) {level : Nat} (s : State) (hl : 7 < level) :
    processInterrupt run level s = .refused .badLevel := if_pos hl

theorem interruptVector_eq_none {base : Int} {level : Nat} (h : base + level < 0 ∨ 255 < base + level) :
    interruptVector base level = none :=
  if_neg (by omega)

theorem processInterrupt_badVector (run : Runner) {level : Nat} {s : State} (hl : level ≤ 7) (hobs : s.Observing)
    (h : s.baseRead + level < 0 ∨ 255 < s.baseRead + level) :
    processInterrupt run level s = .refused .badVector := by
  have hnone : interruptVector ((s.answer .interruptVectorBase).number.getD
      (s.called .interruptVectorBase).cfg.vectorBase) level = none := interruptVector_eq_none h
  unfold processInterrupt
  rw [if_neg (by omega), envCall_observing run _ hobs]
  simp only [Run.andThen_ok, hnone]

/-- At its port `ProcessException` is refused as the shared operation is. -/
theorem exec_processException_refused {vector : Nat} {s : State} {r : Refusal}
    (h : processException s.runner vector s = .refused r) : exec (.processException vector) s = .refused r := by
  change (processException s.runner vector s).outcome s = _
  rw [h, Run.outcome_refused]

/-- At its port `ProcessInterrupt` is refused as the shared operation is. -/
theorem exec_processInterrupt_refused {level : Nat} {s : State} {r : Refusal}
    (h : processInterrupt s.runner level s = .refused r) : exec (.processInterrupt level) s = .refused r := by
  change (processInterrupt s.runner level s).outcome s = _
  rw [h, Run.outcome_refused]

/-- The size of a frame, written out: 14 bytes for vectors 2 and 3, else 6 (spec 60 R164). -/
theorem frameBytes_eq (vector : Nat) : frameBytes vector = BitVec.ofNat 32 (if vector = 2 ∨ vector = 3 then 14 else 6) := by
  simp only [frameBytes, hasLongFrame, vecBusError, vecAddressError, Bool.or_eq_true, beq_iff_eq]
  split <;> rfl

/-- Settles O24: the refusals of the shared operations, at their ports. -/
theorem exceptionAndInterruptRefusals : Obligations.ExceptionAndInterruptRefusals := by
  refine ⟨fun v s hv => exec_processException_refused (processException_badVector _ s hv),
    fun v s hv hobs hh hfit =>
      exec_processException_refused (processException_frame_doubleFault _ hv hobs.silent hh hfit), ?validator,
    fun level s hl => exec_processInterrupt_refused (processInterrupt_badLevel _ s hl),
    fun level s hl hobs h => exec_processInterrupt_refused (processInterrupt_badVector _ hl hobs h)⟩
  rintro v s n h m hv hsil hh hfit rfl rfl hout hval
  refine exec_processException_refused (processException_validator_doubleFault _ hv hsil hh hfit ?_ hval)
  rw [frameBytes_eq]
  split_ifs at hout ⊢ <;> exact hout

end Sys2Proof.Machine
end

section
/-! PROOF. The operations at their ports (spec 40 R80, R81, R88, R89, R91 to R98): each `exec` is its shared operation, and
what that does is said in Laws. -/

namespace Sys2Proof.Machine

/-! ## An instruction is its operation -/

/-- `exec` is the outcome of the operation over the state's runner. -/
theorem exec_eq_operate (i : Instr) (s : State) : exec i s = (operate s.runner i s).outcome s := by
  cases i <;> rfl

/-- An operation that completes gives its next state. -/
theorem exec_of_completes {i : Instr} {s t : State} (h : operate s.runner i s = .ok () t) : exec i s = .next t := by
  rw [exec_eq_operate, h, Run.outcome_ok]

/-! ## The event ports (spec 42 R125, R126) -/

/-- Putting a value at the port commutes with leaving the environment's bookkeeping out. -/
theorem State.returns_machine (s : State) (r : Ret) : (s.returns r).machine = s.machine.returns r := rfl

/-- An event port in an observing environment: every hook called, the OR of the replies returned. -/
theorem eventPort_observing (run : Runner) (key : HookKey) (ev : EventRecord) {s : State} (h : s.Observing) :
    eventPort run key ev s =
      .ok () ((s.calledAll (s.hookCalls key (.event ev))).returns
        (.bool ((s.replies (s.hookCalls key (.event ev))).any id))) := by
  rw [eventPort, invokeHooks_observing run key _ h, Run.andThen_ok]

/-- Settles O18: four ports are `eventPort` of their key, the other two only invoke their list. -/
theorem eventPortsCallHooksInOrder : Obligations.EventPortsCallHooksInOrder := by
  intro ev s hobs
  refine ⟨fun i key hmem => ?replying, fun i key hmem => ?silent⟩
  case replying =>
    have hport : operate s.runner i s = eventPort s.runner key ev s := by
      simp only [List.mem_cons, Prod.mk.injEq, List.not_mem_nil, or_false] at hmem
      rcases hmem with ⟨rfl, rfl⟩ | ⟨rfl, rfl⟩ | ⟨rfl, rfl⟩ | ⟨rfl, rfl⟩ <;> rfl
    refine ⟨_, exec_of_completes (hport.trans (eventPort_observing _ key ev hobs)), ?_, ?_⟩
    · rw [State.returns_calls, State.calledAll_calls]
    · rw [State.returns_machine, State.calledAll_machine]
      rfl
  case silent =>
    have hport : operate s.runner i s = .ok () (s.calledAll (s.hookCalls key (.event ev))) := by
      simp only [List.mem_cons, Prod.mk.injEq, List.not_mem_nil, or_false] at hmem
      rcases hmem with ⟨rfl, rfl⟩ | ⟨rfl, rfl⟩
      · exact eventLINK_observing _ ev hobs
      · exact eventNewSP_observing _ ev hobs
    exact ⟨_, exec_of_completes hport, State.calledAll_calls s _, State.calledAll_machine s _⟩

/-! ## SetPC and cycleCount (spec 40 R88, R97) -/

/-- Settles O19: the observing and the silent `SetPC` by their laws, any other by `setPC_installs`. -/
theorem setPCCallsHooksThenValidatesThenInstalls : Obligations.SetPCCallsHooksThenValidatesThenInstalls := by
  refine ⟨fun addr s hobs => ?observing, fun addr s t hnext hbound => ?installs, fun addr s m hsil hval => ?rejected⟩
  case observing =>
    refine ⟨_, exec_of_completes (setPC_observing s.runner addr hobs), ?_, ?_⟩
    · rw [State.putPC_machine, State.calledAll_machine]
      rfl
    · rw [State.putPC_calls, State.calledAll_calls, State.setPCCalls, List.reverse_append]
      rfl
  case installs =>
    rw [exec_eq_operate] at hnext
    obtain ⟨_, hdone⟩ := Run.outcome_completed hnext hbound
    exact setPC_installs hdone
  case rejected =>
    have habort := setPC_silent s.runner addr hsil
    rw [hval] at habort
    rw [exec_eq_operate]
    exact congrArg (Run.outcome · s) habort

/-- Settles O20: the operation puts CYC at the port. -/
theorem cycleCountReturnsCYC : Obligations.CycleCountReturnsCYC :=
  fun _ => exec_of_completes rfl

/-! ## Illegal opcodes (spec 40 R89, 30 R61) -/

theorem illegalVector_lineA {op : Half} (h : lineOf op = 0xA) : illegalVector op = 10 := if_pos h

theorem illegalVector_lineF {op : Half} (h : lineOf op = 0xF) : illegalVector op = 11 := by
  rw [illegalVector, h]
  rfl

theorem illegalVector_other {op : Half} (hA : lineOf op ≠ 0xA) (hF : lineOf op ≠ 0xF) : illegalVector op = 4 :=
  (if_neg hA).trans (if_neg hF)

/-- `ProcessIllegalInstruction` takes the vector of the word's line wherever it can be taken. -/
theorem exec_processIllegalInstruction_takes {op : Half} {v : Nat} {s : State} (hv : illegalVector op = v)
    (hcan : s.CanTake v) : ∃ t, exec (.processIllegalInstruction op) s = .next t ∧ Takes v s t := by
  subst hv
  obtain ⟨t, hdone, htakes, -, -⟩ := processException_takes s.runner hcan
  exact ⟨t, exec_of_completes hdone, htakes⟩

/-- Settles O26: the vector of each of the three classes of the top nibble. -/
theorem illegalInstructionTakesVectorOfNibble : Obligations.IllegalInstructionTakesVectorOfNibble :=
  fun _ _ => ⟨fun hA => exec_processIllegalInstruction_takes (illegalVector_lineA hA),
    fun hF => exec_processIllegalInstruction_takes (illegalVector_lineF hF),
    fun hA hF => exec_processIllegalInstruction_takes (illegalVector_other hA hF)⟩

/-! ## execute() (spec 40 R80, R81, R98) -/

/-- Settles O41: the refusal's condition and its negation. -/
theorem executeStartsOrRefusesReentry : Obligations.ExecuteStartsOrRefusesReentry := by
  refine fun s => ⟨fun hfree => ?starts, fun hbusy hnested => ?refused⟩
  case starts =>
    have hfree' : ¬ (s.acts ≠ [] ∧ s.nested = false) := by
      rintro ⟨hbusy, hnested⟩
      exact hfree.elim hbusy (by simp [hnested])
    exact exec_of_completes (if_neg hfree')
  case refused =>
    rw [exec_eq_operate]
    exact congrArg (Run.outcome · s) (if_pos ⟨hbusy, hnested⟩)

end Sys2Proof.Machine
end

section
/-! PROOF. Step C for the words NOP, the illegal ones and DISPATCH (spec 40 R84, R89, R90; 60 R171). -/

namespace Sys2Proof.Machine

/-- Step C of a NOP: the PC at the next word, and the cost of the handlers of 95 section 3.1. -/
theorem opNop_completes (run : Runner) (s : State) :
    opNop run s = .ok () ((s.putPC (s.regs.pc + 2)).addCycles fixtureCost) := by
  unfold opNop
  exact runHandler_ok (t := (s.withCtx .handler).putPC (s.regs.pc + 2)) rfl

/-- Settles O28: the next state written out. -/
theorem nopAdvancesPC : Obligations.NopAdvancesPC :=
  fun s => exec_of_completes (opNop_completes s.runner s)

/-- The illegal handler takes the vector of the word's line, its cost counted (spec 40 R89). -/
theorem exec_illegal_takes {i : Instr} {op : Half} {v : Nat} {s s' : State}
    (hi : operate s.runner i s = illegalHandler s.runner op s) (hv : illegalVector op = v)
    (hs' : s' = { s with cyc := s.cyc + 4 }) (hcan : s'.CanTake v) :
    ∃ t, exec i s = .next t ∧ Takes v s' t := by
  subst hv hs'
  obtain ⟨t, hdone, htakes⟩ := runHandler_takes (run := s.runner) (s := s) (m := s) (c := fixtureCost)
    (body := fun s' => (processIllegalInstruction s.runner op s').thenCost fixtureCost) rfl rfl hcan
  exact ⟨t, exec_of_completes (hi.trans hdone), htakes⟩

/-- Settles O30: each row's word has the row's line. -/
theorem illegalWordsTakeTheirVector : Obligations.IllegalWordsTakeTheirVector :=
  fun _ _ hs' =>
    ⟨fun rest => exec_illegal_takes rfl (illegalVector_lineA (lineOf_append _ rest)) hs',
      fun rest => exec_illegal_takes rfl (illegalVector_lineF (lineOf_append _ rest)) hs',
      fun line rest hA hF => exec_illegal_takes rfl
        (illegalVector_other (by rwa [lineOf_append]) (by rwa [lineOf_append])) hs',
      exec_illegal_takes rfl (illegalVector_other (op := 0x4AFC) (by decide) (by decide)) hs'⟩

/-! ## The default table -/

/-- The default handler of a word is the operation of the instruction in its slot: no slot holds a row that is none of an
opcode word (spec 30 R73). -/
theorem defaultHandler_eq_operate (run : Runner) (op : Half) (s : State) :
    defaultHandler run op s = operate run (decodeWord op) s := by
  obtain ⟨-, -, hop, hdispatch⟩ := decodeWord_isRowOf op
  unfold defaultHandler
  generalize decodeWord op = i at hop hdispatch
  cases i with
  | dispatch w => exact absurd rfl (hdispatch w)
  | illegalLineA | illegalLineF | illegalOther | nop | stop | rte | rts | trapv | trap | link | jsr | illegal
  | moveWAbsLD0 => rfl
  | _ => exact absurd hop Bool.false_ne_true

/-! ## An injected handler that writes cells (log 34) -/

/-- The cells of a list written in order. -/
def State.written (s : State) (ws : List (RegId × Word)) : State :=
  { s with regs := ws.foldl (fun r w => r.putCell w.1 w.2) s.regs }

/-- A handler that begins with cell writes goes on from the state in which they are made (spec 40 R90). -/
theorem performHandlerActs_writes (run : Runner) (ws : List (RegId × Word)) (after : List HandlerAct) (s : State) :
    performHandlerActs run (ws.map (fun w => HandlerAct.writeCell w.1 w.2) ++ after) s =
      performHandlerActs run after (s.written ws) := by
  induction ws generalizing s with
  | nil => rfl
  | cons w ws ih => exact ih { s with regs := s.regs.putCell w.1 w.2 }

/-- A store that the memory collaborator rejects changes nothing (spec 20 R44). -/
theorem memStore_rejected {s : State} {addr : Word} {size : AccessSize} {kind : FaultKind}
    (h : s.cfg.policy.verdict addr size .write = some kind) (v : Word) :
    memStore addr size v s = .abort { kind := kind, addr := addr, size := size, dir := .write } s := by
  cases size <;> simp only [memStore, memWriteHalf, memWriteWord, access_rejected h, Run.andThen_abort]

/-- What an injected handler of a word does, then its `Done(c)` or its `Fault` (spec 40 R84, R90). -/
def injectedBody (run : Runner) (op : Half) (s : State) : State → Run Word :=
  fun s' =>
    (performHandlerActs run (s.answer (.handler op)).body s').andThen fun _ s' =>
      match (s.answer (.handler op)).fault with
      | some m => .abort m s'
      | none => .ok (s.answer (.handler op)).cost s'

/-- DISPATCH of a word with an injected handler is step C of that handler, its call noted. -/
theorem operate_dispatch_prepared (run : Runner) {op : Half} {s : State} (h : s.prepared (.handler op) = true) :
    operate run (.dispatch op) s = runHandler run (injectedBody run op s) (s.called (.handler op)) := if_pos h

/-- An injected handler cut short by a memory fault: recorded and taken from what the handler had written (60 R171). -/
theorem faultsAt_injected {op : Half} {s : State} {ws : List (RegId × Word)} {f : MemFault}
    (hprep : s.prepared (.handler op) = true)
    (hbody : injectedBody s.runner op s ((s.called (.handler op)).withCtx .handler) =
      .abort f (((s.called (.handler op)).withCtx .handler).written ws)) :
    FaultsAt (.dispatch op) s ((s.called (.handler op)).written ws) f := by
  intro hcan
  obtain ⟨t, hdone, htakes⟩ := runHandler_faults (run := s.runner) hbody hcan
  exact ⟨t, exec_of_completes ((operate_dispatch_prepared _ hprep).trans hdone), htakes⟩

/-- Settles O40: the default table's slot, and for an injected handler its writes, then how it ends. -/
theorem dispatchCallsTheSlotAndCountsItsCost : Obligations.DispatchCallsTheSlotAndCountsItsCost := by
  refine ⟨fun op s hprep => ?default, fun op s s1 ws hprep hs1 => ?injected⟩
  case default =>
    have hslot : operate s.runner (.dispatch op) s = defaultHandler s.runner op s := if_neg (by simp [hprep])
    rw [exec_eq_operate, exec_eq_operate, hslot, defaultHandler_eq_operate]
  case injected =>
    subst hs1
    refine ⟨fun hacts => ?writes, fun addr size v after hacts kind hverdict => faultsAt_injected hprep ?store⟩
    case writes =>
      have hwrites (s' : State) :
          performHandlerActs s.runner (s.answer (.handler op)).body s' = .ok () (s'.written ws) := by
        rw [hacts, ← List.append_nil (ws.map _), performHandlerActs_writes, performHandlerActs]
      refine ⟨fun hnone => ?done, fun f hsome => faultsAt_injected hprep ?fault⟩
      case done =>
        refine exec_of_completes ((operate_dispatch_prepared _ hprep).trans (runHandler_ok
          (c := (s.answer (.handler op)).cost) (t := ((s.called (.handler op)).withCtx .handler).written ws) ?_))
        rw [injectedBody, hwrites, Run.andThen_ok, hnone]
      case fault => rw [injectedBody, hwrites, Run.andThen_ok, hsome]
    case store =>
      have hrej := memStore_rejected (s := ((s.called (.handler op)).withCtx .handler).written ws) hverdict v
      rw [injectedBody, hacts, performHandlerActs_writes, performHandlerActs, performHandlerAct, hrej]
      rfl

end Sys2Proof.Machine
end

section
/-! PROOF. The interpreter loop (spec 40 R80 to R87): a step at L is step A, the slot's instruction, steps D and E. -/

namespace Sys2Proof.Machine

/-! ## The steps of an iteration -/

/-- With no call of the host pending, a step is the loop's. -/
theorem step_eq_loopStep {s : State} (hport : s.port = []) :
    step s = (loopStep (execRun exec) s.runner s).outcome s := by
  rw [step, stepFrom, hport]
  rfl

/-- Step A completes in the state that `BreakQuery` says (spec 40 R82). -/
theorem stepA_of_breakQuery {s t : State} (h : BreakQuery s t) : stepA s.runner s = .ok () t := by
  unfold stepA
  rcases h with ⟨hnested, rfl⟩ | ⟨hnested, hquiet, ⟨hmiss, rfl⟩ | ⟨hhit, htold⟩⟩
  · rw [if_pos hnested]
  · rw [hnested, if_neg Bool.false_ne_true, envAsk_quiet _ _ hquiet, Run.andThen_ok, hmiss, if_neg Bool.false_ne_true]
  · rw [hnested, if_neg Bool.false_ne_true, envAsk_quiet _ _ hquiet, Run.andThen_ok, hhit, if_pos rfl, htold]

/-- A permitted fetch runs the slot of the word at PC (spec 40 R83, R84). -/
theorem stepBC_permitted (disp run : Runner) {s : State} (h : s.Permits s.regs.pc .two .read) :
    stepBC disp run s = disp (slotInstr s (s.half s.regs.pc)) s := by
  rw [stepBC, memReadHalf_permitted h]

/-- Settles O42: step A and the fetch complete; the slot's instruction completes, is tried again, or stops the machine. -/
theorem stepRunsTheDecodedInstruction : Obligations.StepRunsTheDecodedInstruction := by
  intro s s1 i rest hport hacts hquery hpermits hdecode
  obtain rfl : decodeWord (s1.half s1.regs.pc) = i := congrArg Prod.fst (Except.ok.inj hdecode)
  have hstep : step s = ((execRun exec (slotInstr s1 (s1.half s1.regs.pc)) s1).andThen fun _ s2 =>
      (stepD s.runner s2).andThen fun _ s3 => stepE s.runner s3).outcome s := by
    rw [step_eq_loopStep hport, loopStep, hacts]
    simp only [iteration, stepA_of_breakQuery hquery, Run.andThen_ok, stepBC_permitted _ _ hpermits]
  rw [hstep, execRun, slotInstr]
  cases exec (if s1.prepared (.handler (s1.half s1.regs.pc)) then _ else _) s1 with
  | next s2 =>
    by_cases hbound : s2.bound = s1.bound
    · simp only [Run.ofOutcome_next hbound, Run.andThen_ok, if_pos hbound]
    · simp only [Run.ofOutcome, if_neg hbound, Run.andThen_unfinished, Run.outcome_unfinished]
      rfl
  | fault e => rfl
  | refused e => rfl

/-! ## One iteration on a NOP -/

/-- The calls of step D: the expensive housekeeping every SLOW_MASK + 1 iterations, none of it while nested (spec 40 R85,
R87). -/
def State.housekeepingCalls (s : State) : List EnvCall :=
  .onCycle false ::
    if s.nested = false ∧ (s.iter + 1) &&& slowMask s = 0 then [.onCycleSlowly false] else []

/-- The calls of step D, newest first. -/
theorem State.housekeepingCalls_reverse (s : State) :
    s.housekeepingCalls.reverse =
      (if s.nested = false ∧ (s.iter + 1) &&& slowMask s = 0 then [.onCycleSlowly false] else []) ++ [.onCycle false] := by
  unfold State.housekeepingCalls
  split <;> rfl

/-- The iteration counted (spec 40 R85). -/
def State.counted (s : State) : State :=
  { s with iter := s.iter + 1 }

/-- Counting the iteration and calls of the environment do not depend on each other. -/
theorem State.counted_calledAll (s : State) (cs : List EnvCall) : s.counted.calledAll cs = (s.calledAll cs).counted := by
  induction cs generalizing s with
  | nil => rfl
  | cons c cs ih => exact ih (s.called c)

/-- Step D of a nested iteration in an observing environment: `onCycle` alone (spec 40 R87). -/
theorem stepD_nested (run : Runner) {s : State} (h : s.Observing) (hnested : s.nested = true) :
    stepD run s = .ok () (s.calledAll s.housekeepingCalls) := by
  have hmode : (s.called (.onCycle false)).nested = true := hnested
  rw [stepD, envTell_observing run _ h, Run.andThen_ok, if_pos hmode, State.housekeepingCalls,
    if_neg (by simp [hnested])]
  rfl

/-- Step D outside nested mode in an observing environment: its calls, and ITER counted (spec 40 R85). -/
theorem stepD_counts (run : Runner) {s : State} (h : s.Observing) (hnested : s.nested = false) :
    stepD run s = .ok () (s.calledAll s.housekeepingCalls).counted := by
  have hmode : ¬ (s.called (.onCycle false)).nested = true := by simp [hnested]
  rw [stepD, envTell_observing run _ h, Run.andThen_ok, if_neg hmode, ← State.counted_calledAll,
    State.housekeepingCalls]
  change (if (s.iter + 1) &&& slowMask s = 0 then
    envTell run _ (s.called (.onCycle false)).counted else .ok () (s.called (.onCycle false)).counted) = _
  by_cases hslow : (s.iter + 1) &&& slowMask s = 0
  · have hobs : (s.called (.onCycle false)).counted.Observing := h.called _
    rw [if_pos hslow, if_pos ⟨hnested, hslow⟩, envTell_observing run _ hobs]
    rfl
  · rw [if_neg hslow, if_neg fun hboth => hslow hboth.2]
    rfl

/-- Step E with no flag set: back to L (spec 40 R86). -/
theorem stepE_clear (run : Runner) {s : State} (h : s.sf.any = false) : stepE run s = .ok () (s.setTop .fetch) :=
  if_neg (by simp [h])

/-- The calls of step A where no break location is hit (spec 40 R82, R87). -/
def State.breakQueryCalls (s : State) : List EnvCall :=
  if s.nested then [] else [.isBreakLocation s.regs.pc]

/-- Step A in an observing environment, no break location hit. -/
theorem breakQuery_observing {s : State} (h : s.Observing)
    (hmiss : (s.answer (.isBreakLocation s.regs.pc)).yes = false) :
    BreakQuery s (s.calledAll s.breakQueryCalls) := by
  unfold BreakQuery State.breakQueryCalls
  cases hnested : s.nested with
  | true => exact .inl ⟨rfl, rfl⟩
  | false => exact .inr ⟨rfl, h.acts_answer _, .inl ⟨hmiss, rfl⟩⟩

/-- Calls prepare no answer. -/
theorem State.prepared_calledAll {s : State} {c : EnvCall} (h : s.prepared c = false) (cs : List EnvCall) :
    (s.calledAll cs).prepared c = false := by
  induction cs generalizing s with
  | nil => exact h
  | cons d cs ih =>
    refine ih ?_
    unfold State.prepared at h ⊢
    rw [List.any_eq_false] at h ⊢
    exact fun e he => h e (dropAnswer_subset d _ e he)

/-- A step at a NOP: step A, the NOP, steps D and E (spec 40 R80). -/
theorem step_nop {s s1 : State} {rest : List Phase} (hport : s.port = []) (hacts : s.acts = .fetch :: rest)
    (hquery : BreakQuery s s1) (hpermits : s1.Permits s1.regs.pc .two .read) (hword : s1.half s1.regs.pc = 0x4E71)
    (hprep : s1.prepared (.handler 0x4E71) = false) :
    step s = ((stepD s.runner ((s1.putPC (s1.regs.pc + 2)).addCycles 4)).andThen fun _ s3 =>
      stepE s.runner s3).outcome s := by
  have hdecode : decode [s1.byte s1.regs.pc, s1.byte (s1.regs.pc + 1)] = .ok (.nop, []) :=
    congrArg (fun op => Except.ok (decodeWord op, [])) hword
  have hexec : exec .nop s1 = .next ((s1.putPC (s1.regs.pc + 2)).addCycles 4) := nopAdvancesPC s1
  rw [stepRunsTheDecodedInstruction s s1 .nop rest hport hacts hquery hpermits hdecode, hword, hprep,
    if_neg Bool.false_ne_true, hexec]
  exact if_pos rfl

/-- Settles O44: the step at a NOP, then step D nested or not, then step E with no flag set. -/
theorem iterationOfNopDoesItsHousekeeping : Obligations.IterationOfNopDoesItsHousekeeping := by
  intro s rest hport hacts hclear hobs hmiss hpermits hword hprep
  have hstep := step_nop hport hacts (breakQuery_observing hobs hmiss)
    (by rwa [State.calledAll_regs, State.Permits, State.calledAll_cfg])
    (by rw [State.calledAll_regs, State.half_of_mem (s.calledAll_mem _), hword]) (State.prepared_calledAll hprep _)
  have hobs' : (((s.calledAll s.breakQueryCalls).putPC
      ((s.calledAll s.breakQueryCalls).regs.pc + 2)).addCycles 4).Observing := hobs.calledAll s.breakQueryCalls
  rw [hstep]
  cases hnested : s.nested with
  | true =>
    rw [stepD_nested _ hobs' (by simp [hnested]), Run.andThen_ok, stepE_clear _ (by simp [hclear]), Run.outcome_ok]
    refine ⟨_, rfl, ?_, ?_⟩
    · apply State.ext_fields <;> simp [hacts, hnested]
    · simp [State.housekeepingCalls_reverse, State.breakQueryCalls, hnested]
  | false =>
    rw [stepD_counts _ hobs' (by simp [hnested]), Run.andThen_ok, stepE_clear _ (by simp [hclear, State.counted]),
      Run.outcome_ok]
    refine ⟨_, rfl, ?_, ?_⟩
    · apply State.ext_fields <;> simp [State.counted, hacts, hnested]
    · simp [State.housekeepingCalls_reverse, State.breakQueryCalls, State.counted, slowMask, hnested]

end Sys2Proof.Machine
end

section
/-! PROOF. A step of an `execute()` that idles, or that was entered with STOP set (spec 40 R81, 41 R104, R109, R111). -/

namespace Sys2Proof.Machine

/-! ## A pass entered with STOP set -/

theorem State.endOfCycled_acts (s : State) : s.endOfCycled.acts = s.acts := by
  unfold State.endOfCycled
  split <;> rfl

theorem State.endOfCycled_stop (s : State) : s.endOfCycled.sf.stop = s.sf.stop := by
  unfold State.endOfCycled
  split <;> rfl

theorem traceFires_of_stop {s : State} (h : s.sf.stop = true) : traceFires s = false := by
  rw [traceFires, h, Bool.not_true, Bool.and_false]

/-- A pass with STOP set and no "handled, stop" is its STOP branch, after the end-of-cycle branch and with DOTRACE held
back (spec 41 R102 to R104, R115). -/
theorem specialPass_stopped (run : Runner) (inn : IdleIn) {s : State} (hobs : s.Observing) (hnested : s.nested = false)
    (hstop : s.sf.stop = true)
    (heoc : s.sf.eoc = true → s.cfg.scEval = .sequential ∧ (s.answer (.onEndOfCycle false)).yes = false) :
    specialPass run inn s = passFromStop run inn s.endOfCycled := by
  have hquiet : (s.sf.eoc && (s.answer (.onEndOfCycle false)).yes) = false :=
    Bool.and_eq_false_imp.2 fun h => (heoc h).2
  unfold specialPass
  rw [hnested, if_neg Bool.false_ne_true]
  cases heval : s.cfg.scEval with
  | sequential =>
    have hheld : traceFires s.endOfCycled = false := traceFires_of_stop (s.endOfCycled_stop.trans hstop)
    simp only [sequentialPass, endOfCycleBranch_observing run hobs, Run.andThen_ok, hquiet, traceFireBranch, hheld,
      if_neg Bool.false_ne_true]
  | chain =>
    have hclear : s.sf.eoc = false := Bool.eq_false_iff.2 fun h => absurd ((heoc h).1.symm.trans heval) (by decide)
    simp only [chainPass, hclear, traceFires_of_stop hstop, hstop, if_neg Bool.false_ne_true, if_true,
      State.endOfCycled]

/-- The STOP branch wakes the device, ticks once and goes on as the tick says (spec 41 R104, R109). -/
theorem passFromStop_ticks (run : Runner) {inn : IdleIn} (hinn : inn ≠ .port) {s : State} {p : Phase} {outer : List Phase}
    (hacts : s.acts = p :: outer) (hobs : s.Observing) (hstop : s.sf.stop = true) (hcan : (s.idled s.wakeCalls).CanServe)
    (s0 : State) :
    ∃ u, ChecksInterrupt (s.idled s.wakeCalls) u ∧ TickEnds inn outer u ((passFromStop run inn s).outcome s0) := by
  obtain ⟨u, hchecks, huobs, ⟨-, huacts⟩, htick⟩ := enterStoppedLoop_observing run hobs hcan
  refine ⟨u, hchecks, ?_⟩
  rw [passFromStop, if_pos hstop, htick, Run.andThen_ok]
  exact afterTick_ends run hinn (huacts.trans hacts) huobs s0

/-- What the break check at the end of a pass of `execute()` does with its result (spec 40 R80). -/
theorem endPass_loop {s : State} {p : Phase} {outer : List Phase} (hacts : s.acts = p :: outer) (result : Bool) :
    endPass .loop result s = State.passEnded .loop outer result s := by
  cases result <;> simp [endPass, State.passEnded, State.pop, State.setTop, hacts]

/-! ## The steps -/

/-- A step of an idling `execute()` is an idle tick and what follows from it (spec 41 R104, R109, R111). -/
theorem step_idle {s : State} {rest : List Phase} (hport : s.port = []) (hacts : s.acts = .idle .loop :: rest)
    (hobs : s.Observing) (hcan : (s.idled []).CanServe) :
    ∃ u, ChecksInterrupt (s.idled []) u ∧ TickEnds .loop rest u (step s) := by
  obtain ⟨u, hchecks, huobs, ⟨-, huacts⟩, htick⟩ := idleTick_observing s.runner hobs hcan
  refine ⟨u, hchecks, ?_⟩
  rw [step_eq_loopStep hport, loopStep, hacts]
  simp only [htick, Run.andThen_ok]
  exact afterTick_ends s.runner (by decide) (huacts.trans hacts) huobs s

/-- A step of an `execute()` entered with STOP set is step E, a pass (spec 40 R81). -/
theorem step_check {s : State} {rest : List Phase} (hport : s.port = []) (hacts : s.acts = .check :: rest)
    (hstop : s.sf.stop = true) : step s = (specialPass s.runner .loop s).outcome s := by
  have hany : s.sf.any = true := by simp [SpecialFlags.any, hstop]
  rw [step_eq_loopStep hport, loopStep, hacts]
  simp only [stepE, hany, if_true]

/-- With INT clear the deferral changes nothing (spec 41 R107). -/
theorem State.deferred_of_clear {s : State} (h : s.sf.int = false) : s.deferred = s :=
  (deferBranch_eq s).symm.trans (if_neg (by simp [h]))

/-- With no interrupt flagged the check of a tick changes nothing (spec 41 R111). -/
theorem ChecksInterrupt.eq_of_clear {s u : State} (h : ChecksInterrupt s u) (hdoint : s.sf.doint = false)
    (hint : s.sf.int = false) : u = s := by
  obtain ⟨v, hserves, rfl⟩ := h
  rw [hserves.1 hdoint, State.deferred_of_clear hint, ite_self]

/-- With DOINT clear there is nothing to serve. -/
theorem State.canServe_of_clear {s : State} (h : s.sf.doint = false) : s.CanServe :=
  fun hserves => absurd hserves (by simp [State.serves, h])

/-- A tick with nothing flagged adds its cycles, and makes the break check after its calls (spec 41 R109). -/
theorem step_idle_unflagged {s : State} {rest : List Phase} (hport : s.port = []) (hacts : s.acts = .idle .loop :: rest)
    (hobs : s.Observing) (hdoint : s.sf.doint = false) (hint : s.sf.int = false) :
    TickEnds .loop rest (s.idled []) (step s) := by
  have hdoint' : (s.idled []).sf.doint = false := (congrArg SpecialFlags.doint (s.calledAll_sf _)).trans hdoint
  have hint' : (s.idled []).sf.int = false := (congrArg SpecialFlags.int (s.calledAll_sf _)).trans hint
  obtain ⟨u, hchecks, hends⟩ := step_idle hport hacts hobs (State.canServe_of_clear hdoint')
  rwa [hchecks.eq_of_clear hdoint' hint'] at hends

/-- Settles O52: one tick with nothing flagged is the general tick with a check that changes nothing; entered with STOP set,
the pass comes to its STOP branch, or nested to the break check. -/
theorem idleStepIsOneTick : Obligations.IdleStepIsOneTick := by
  refine ⟨?unflagged, fun s rest hport hacts hobs hcan => step_idle hport hacts hobs hcan, ?entered, ?nested⟩
  case unflagged =>
    rintro s s1 rest hport hacts hobs hstop hdoint hint rfl
    have hstop' : (s.idled []).sf.stop = true := (congrArg SpecialFlags.stop (s.calledAll_sf _)).trans hstop
    obtain ⟨hbroke, hagain, -, -⟩ := step_idle_unflagged hport hacts hobs hdoint hint
    refine ⟨fun hno => ⟨_, hagain hno hstop', ?_, rfl⟩, fun hyes => ⟨_, hbroke hyes, ?_, rfl⟩⟩
    · apply State.ext_fields <;> simp [State.breakChecked, State.idled, hacts]
    · apply State.ext_fields <;> simp [State.passEnded, State.breakChecked, State.idled]
  case entered =>
    intro s rest hport hacts hobs hnested hstop heoc hcan
    rw [step_check hport hacts hstop, specialPass_stopped _ _ hobs hnested hstop heoc]
    exact passFromStop_ticks s.runner (by decide) (s.endOfCycled_acts.trans hacts) hobs.endOfCycled
      (s.endOfCycled_stop.trans hstop) hcan s
  case nested =>
    intro s rest hport hacts hobs hnested hstop
    rw [step_check hport hacts hstop, specialPass, if_pos hnested, finishPass, breakCheck_observing _ hobs, Run.andThen_ok,
      Run.outcome_ok, endPass_loop (s := s.called .sessionShouldBreak) hacts]
    rfl

end Sys2Proof.Machine
end

section
/-! PROOF. What every operation does to the sequencing fields, whatever the environment does and runs inside its callbacks:
who acts, the hook lists being invoked, the activations in progress (spec 41 R109, 70 R212). -/

namespace Sys2Proof.Machine

/-! ## Where an operation ends -/

/-- `P` holds of the value and the state in which the operation completes, `Q` of the state in which a memory fault cuts it
short. -/
def Run.Ends {α : Type} (P : α → State → Prop) (Q : State → Prop) : Run α → Prop
  | .ok a s => P a s
  | .abort _ s => Q s
  | .unfinished => True
  | .fault _ => True
  | .refused _ => True

section
variable {α β : Type} {P P' : α → State → Prop} {Q Q' : State → Prop}

theorem Run.Ends.andThen {R : β → State → Prop} {r : Run α} {f : α → State → Run β} (hr : r.Ends P Q)
    (hf : ∀ a s, P a s → (f a s).Ends R Q') (hcut : ∀ s, Q s → Q' s) : (r.andThen f).Ends R Q' := by
  cases r with
  | ok a s => exact hf a s hr
  | abort m s => exact hcut s hr
  | unfinished => trivial
  | fault e => trivial
  | refused e => trivial

theorem Run.Ends.onAbort {r : Run α} {f : MemFault → State → Run α} (hr : r.Ends P Q)
    (hf : ∀ m s, Q s → (f m s).Ends P Q') : (r.onAbort f).Ends P Q' := by
  cases r with
  | ok a s => exact hr
  | abort m s => exact hf m s hr
  | unfinished => trivial
  | fault e => trivial
  | refused e => trivial

theorem Run.Ends.imp {r : Run α} (hr : r.Ends P Q) (hdone : ∀ a s, P a s → P' a s) (hcut : ∀ s, Q s → Q' s) :
    r.Ends P' Q' := by
  cases r with
  | ok a s => exact hdone a s hr
  | abort m s => exact hcut s hr
  | unfinished => trivial
  | fault e => trivial
  | refused e => trivial

end

/-! ## Operations that keep the sequencing fields -/

/-- The fields that say who acts, which hook lists are being invoked and which activations are in progress. -/
def State.sequencing (s : State) : Ctx × List HookKey × List Phase :=
  (s.ctx, s.busy, s.acts)

theorem State.sequencing_eq_iff {s t : State} :
    t.sequencing = s.sequencing ↔ t.ctx = s.ctx ∧ t.busy = s.busy ∧ t.acts = s.acts := by
  simp only [State.sequencing, Prod.mk.injEq]

/-- The operation ends with the sequencing fields of `s`; a memory fault may cut it short only if `cut` holds. -/
def Run.Keeps {α : Type} (cut : Prop) (s : State) (r : Run α) : Prop :=
  r.Ends (fun _ t => t.sequencing = s.sequencing) fun t => cut ∧ t.sequencing = s.sequencing

/-- Whatever instruction the runner carries out, the sequencing fields are kept. -/
def Runner.Keeps (run : Runner) : Prop :=
  ∀ i s, (run i s).Keeps True s

section
variable {α β : Type} {cut : Prop} {s : State}

/-- The second operation keeps the fields of the state in which it starts. -/
theorem Run.Keeps.andThen {r : Run α} {f : α → State → Run β} (hr : r.Keeps cut s) (hf : ∀ a t, (f a t).Keeps cut t) :
    (r.andThen f).Keeps cut s :=
  Run.Ends.andThen hr (fun a t ht => Run.Ends.imp (hf a t) (fun _ _ hu => hu.trans ht) fun _ hu => ⟨hu.1, hu.2.trans ht⟩)
    fun _ h => h

theorem Run.Keeps.onAbort {cut' : Prop} {r : Run α} {f : MemFault → State → Run α} (hr : r.Keeps cut' s)
    (hf : ∀ m t, (f m t).Keeps cut t) : (r.onAbort f).Keeps cut s :=
  Run.Ends.onAbort hr fun m t ht => Run.Ends.imp (hf m t) (fun _ _ hu => hu.trans ht.2) fun _ hu => ⟨hu.1, hu.2.trans ht.2⟩

/-- Where a memory fault is refused, nothing is cut short. -/
theorem Run.Keeps.noAbort {cut' : Prop} {r : Run α} (hr : r.Keeps cut' s) : r.noAbort.Keeps cut s :=
  hr.onAbort fun _ _ => trivial

/-- The sequencing fields of `s` may stand in those of a state that has the same. -/
theorem Run.Keeps.congr {r : Run α} {t : State} (hr : r.Keeps cut t) (ht : t.sequencing = s.sequencing) :
    r.Keeps cut s := by
  unfold Run.Keeps at hr ⊢
  rwa [ht] at hr

/-- An operation that starts with other sequencing fields, which are put back at its end. -/
theorem Run.Keeps.andThen_from {s1 : State} {r : Run α} {f : α → State → Run β} (hr : r.Keeps False s1)
    (hf : ∀ a t, t.sequencing = s1.sequencing → (f a t).Keeps cut s) : (r.andThen f).Keeps cut s :=
  Run.Ends.andThen hr hf fun _ h => h.1.elim

/-- The actor before put back. -/
theorem State.sequencing_withCtx {t : State} {c : Ctx} (h : t.sequencing = (s.withCtx c).sequencing) :
    (t.withCtx s.ctx).sequencing = s.sequencing :=
  congrArg (fun q : Ctx × List HookKey × List Phase => (s.ctx, q.2)) h

/-- The hook lists invoked before put back. -/
theorem State.sequencing_withBusy {t : State} {b : List HookKey} (h : t.sequencing = (s.withBusy b).sequencing) :
    (t.withBusy s.busy).sequencing = s.sequencing :=
  congrArg (fun q : Ctx × List HookKey × List Phase => (q.1, s.busy, q.2.2)) h

theorem Run.Keeps.thenCost {r : Run α} (hr : r.Keeps cut s) (c : Word) : (r.thenCost c).Keeps cut s :=
  hr.andThen fun _ _ => rfl

end

/-! ## Memory accesses -/

theorem access_keeps (a : Word) (n : AccessSize) (d : Dir) (s : State) : (access a n d s).Keeps True s := by
  unfold access
  split
  · exact ⟨trivial, rfl⟩
  · exact rfl

theorem memReadHalf_keeps (a : Word) (s : State) : (memReadHalf a s).Keeps True s :=
  (access_keeps a _ _ s).andThen fun _ _ => rfl

theorem memReadWord_keeps (a : Word) (s : State) : (memReadWord a s).Keeps True s :=
  (access_keeps a _ _ s).andThen fun _ _ => rfl

theorem memWriteHalf_keeps (a : Word) (v : Half) (s : State) : (memWriteHalf a v s).Keeps True s :=
  (access_keeps a _ _ s).andThen fun _ _ => rfl

theorem memWriteWord_keeps (a v : Word) (s : State) : (memWriteWord a v s).Keeps True s :=
  (access_keeps a _ _ s).andThen fun _ _ => rfl

theorem memReadFullWord_keeps (a : Word) (s : State) : (memReadFullWord a s).Keeps True s := by
  unfold memReadFullWord
  split
  · exact ⟨trivial, rfl⟩
  · exact rfl

theorem memStore_keeps (a : Word) (n : AccessSize) (v : Word) (s : State) : (memStore a n v s).Keeps True s := by
  cases n with
  | one => exact (access_keeps a _ _ s).andThen fun _ _ => rfl
  | two => exact memWriteHalf_keeps a _ s
  | four => exact memWriteWord_keeps a v s

/-! ## Calls of the environment and hooks -/

section
variable {run : Runner} {cut : Prop} (hrun : run.Keeps)
include hrun

theorem makeCall_keeps (c : Call) (s : State) : (makeCall run c s).Keeps True s := by
  unfold makeCall
  split
  · trivial
  · exact hrun c.val s

theorem performAct_keeps (act : Act) (s : State) : (performAct run act s).Keeps True s := by
  cases act with
  | call c => exact makeCall_keeps hrun c s
  | poke addr v => exact rfl
  | setNested on =>
    simp only [performAct]
    split
    · exact rfl
    · exact rfl
    · exact rfl
    · trivial
    · trivial

theorem performActs_keeps (acts : List Act) (s : State) : (performActs run acts s).Keeps True s := by
  induction acts generalizing s with
  | nil => exact rfl
  | cons act rest ih => exact (performAct_keeps hrun act s).andThen fun _ t => ih t

theorem performHandlerAct_keeps (act : HandlerAct) (s : State) : (performHandlerAct run act s).Keeps True s := by
  cases act with
  | call c => exact makeCall_keeps hrun c s
  | load addr size => exact access_keeps addr size .read s
  | store addr size v => exact memStore_keeps addr size v s
  | writeCell | writeBit | writeMask | writeStopped | poke => exact rfl

theorem performHandlerActs_keeps (acts : List HandlerAct) (s : State) :
    (performHandlerActs run acts s).Keeps True s := by
  induction acts generalizing s with
  | nil => exact rfl
  | cons act rest ih => exact (performHandlerAct_keeps hrun act s).andThen fun _ t => ih t

/-- A call of the environment gives control back as it took it. -/
theorem envCall_keeps (c : EnvCall) (s : State) : (envCall run c s).Keeps cut s :=
  Run.Keeps.andThen_from (performActs_keeps hrun _ ((s.called c).withCtx (s.calleeCtx c))).noAbort
    fun _ _ ht => State.sequencing_withCtx ht

theorem envAsk_keeps (c : EnvCall) (s : State) : (envAsk run c s).Keeps cut s :=
  (envCall_keeps hrun c s).andThen fun _ _ => rfl

theorem envTell_keeps (c : EnvCall) (s : State) : (envTell run c s).Keeps cut s :=
  (envCall_keeps hrun c s).andThen fun _ _ => rfl

theorem callHooks_keeps (key : HookKey) (arg : HookArg) (l : List Callback) (s : State) :
    (callHooks run key arg l s).Keeps cut s := by
  induction l generalizing s with
  | nil => exact rfl
  | cons h t ih => exact (envAsk_keeps hrun _ s).andThen fun _ u => (ih u).andThen fun _ _ => rfl

/-- A hook list that has been invoked is no longer being invoked (spec 42 R123). -/
theorem invokeHooks_keeps (key : HookKey) (arg : HookArg) (s : State) : (invokeHooks run key arg s).Keeps cut s :=
  Run.Keeps.andThen_from (callHooks_keeps hrun key arg _ (s.withBusy (key :: s.busy)))
    fun _ _ ht => State.sequencing_withBusy ht

theorem eventNewSP_keeps (ev : EventRecord) (s : State) : (eventNewSP run ev s).Keeps cut s :=
  (invokeHooks_keeps hrun _ _ s).andThen fun _ _ => rfl

theorem eventLINK_keeps (ev : EventRecord) (s : State) : (eventLINK run ev s).Keeps cut s :=
  (invokeHooks_keeps hrun _ _ s).andThen fun _ _ => rfl

theorem eventPort_keeps (key : HookKey) (ev : EventRecord) (s : State) : (eventPort run key ev s).Keeps cut s :=
  (invokeHooks_keeps hrun _ _ s).andThen fun _ _ => rfl

/-! ## Installing a PC, exceptions and interrupts -/

theorem checkNewPC_keeps (addr : Word) (s : State) : (checkNewPC run addr s).Keeps True s :=
  (envCall_keeps hrun _ s).andThen fun a t => by
    cases a.fault with
    | some m => exact ⟨trivial, rfl⟩
    | none => exact rfl

theorem setPC_keeps (addr : Word) (s : State) : (setPC run addr s).Keeps True s :=
  (invokeHooks_keeps hrun _ _ s).andThen fun _ t => (checkNewPC_keeps hrun addr t).andThen fun _ _ => rfl

omit hrun in
theorem pushFrame_keeps (vector : Nat) (s : State) : (pushFrame vector s).Keeps True s := by
  have hlong (a : Word) (t : State) : (writeLongFrame a t).Keeps True t :=
    (memWriteHalf_keeps _ _ t).andThen fun _ t => (memWriteWord_keeps _ _ t).andThen fun _ t =>
      (memWriteHalf_keeps _ _ t).andThen fun _ t => (memWriteHalf_keeps _ _ t).andThen fun _ t =>
        memWriteWord_keeps _ _ t
  have hshort (a : Word) (t : State) : (writeShortFrame a t).Keeps True t :=
    (memWriteHalf_keeps _ _ t).andThen fun _ t => memWriteWord_keeps _ _ t
  unfold pushFrame
  split
  · exact hlong _ (s.putSP _)
  · exact hshort _ (s.putSP _)

theorem enterException_keeps (vector : Nat) (s : State) : (enterException run vector s).Keeps cut s :=
  Run.Keeps.noAbort (cut' := True) <|
    (pushFrame_keeps vector { s with regs := s.regs.enterSupervisor }).andThen fun _ t =>
      (memReadFullWord_keeps _ t).andThen fun h t => (setPC_keeps hrun h t).andThen fun _ _ => rfl

theorem processException_keeps (vector : Nat) (s : State) : (processException run vector s).Keeps cut s := by
  unfold processException
  split
  · trivial
  · refine (invokeHooks_keeps hrun _ _ s.packSR).andThen fun handled t => ?_
    split
    · exact rfl
    · exact enterException_keeps hrun vector t

theorem memoryFault_keeps (m : MemFault) (s : State) : (memoryFault run m s).Keeps cut s :=
  processException_keeps hrun _ (s.recorded m)

theorem processInterrupt_keeps (level : Nat) (s : State) : (processInterrupt run level s).Keeps cut s := by
  unfold processInterrupt
  split
  · trivial
  · refine (envCall_keeps hrun _ s).andThen fun a t => ?_
    split
    · trivial
    · exact (processException_keeps hrun _ t).andThen fun _ _ => rfl

theorem returnFromException_keeps (s : State) : (returnFromException run s).Keeps True s :=
  (memReadHalf_keeps _ s).andThen fun sr t => (memReadWord_keeps _ t).andThen fun pc t =>
    setPC_keeps hrun pc ((t.putSP (t.sp + 6)).setSR sr)

/-! ## Opcode words -/

/-- A handler gives control back to the loop, completed or cut short (spec 40 R84, 60 R171). -/
theorem runHandler_keeps {body : State → Run Word} (hbody : ∀ t, (body t).Keeps True t) (s : State) :
    (runHandler run body s).Keeps cut s := by
  have hdone : ((body (s.withCtx .handler)).andThen fun c t => .ok () ((t.withCtx s.ctx).addCycles c)).Ends
      (fun _ t => t.sequencing = s.sequencing) fun t => (t.withCtx s.ctx).sequencing = s.sequencing :=
    Run.Ends.andThen (hbody (s.withCtx .handler)) (fun _ _ ht => State.sequencing_withCtx ht)
      fun _ ht => State.sequencing_withCtx ht.2
  exact hdone.onAbort fun m t ht => (memoryFault_keeps hrun m (t.withCtx s.ctx)).congr ht

theorem illegalHandler_keeps (op : Half) (s : State) : (illegalHandler run op s).Keeps cut s :=
  runHandler_keeps hrun (fun t => (processException_keeps hrun _ t).thenCost _) s

theorem privileged_keeps {body : State → Run Word} (hbody : ∀ t, (body t).Keeps True t) (s : State) :
    (privileged run body s).Keeps True s := by
  unfold privileged
  split
  · exact hbody s
  · exact (processException_keeps hrun _ s).thenCost _

theorem injectedHandler_keeps (op : Half) (s : State) : (injectedHandler run op s).Keeps cut s := by
  have hbody (t : State) : (injectedBody run op s t).Keeps True t := by
    refine (performHandlerActs_keeps hrun _ t).andThen fun _ u => ?_
    split
    · exact ⟨trivial, rfl⟩
    · exact rfl
  exact runHandler_keeps hrun hbody (s.called (.handler op))

omit hrun in
theorem controlAddress_keeps (eaMode eaReg : BitVec 3) (s : State) : (controlAddress eaMode eaReg s).Keeps True s := by
  have hhalf (f : Half → State → Word × Word) (a : Word) :
      ((memReadHalf a s).andThen fun h t => .ok (f h t) t).Keeps True s :=
    (memReadHalf_keeps a s).andThen fun _ _ => rfl
  have hword (f : Word → Word × Word) (a : Word) :
      ((memReadWord a s).andThen fun w t => .ok (f w) t).Keeps True s :=
    (memReadWord_keeps a s).andThen fun _ _ => rfl
  unfold controlAddress
  split_ifs
  · exact rfl
  · exact hhalf (fun d16 _ => _) _
  · exact hhalf (fun ext t => _) _
  · exact hhalf (fun a16 _ => _) _
  · exact hword (fun a32 => _) _
  · exact hhalf (fun d16 _ => _) _
  · exact hhalf (fun ext t => _) _

theorem opJsr_keeps (eaMode eaReg : BitVec 3) (s : State) : (opJsr run eaMode eaReg s).Keeps cut s := by
  unfold opJsr
  split
  · refine runHandler_keeps hrun (fun t => ?_) s
    exact (invokeHooks_keeps hrun _ _ t).andThen fun _ t => (controlAddress_keeps _ _ t).andThen fun _ t =>
      (memWriteWord_keeps _ _ (t.putSP (t.sp - 4))).andThen fun _ t => (setPC_keeps hrun _ t).thenCost _
  · exact illegalHandler_keeps hrun _ s

theorem opTrapv_keeps (s : State) : (opTrapv run s).Keeps cut s := by
  refine runHandler_keeps hrun (fun t => ?_) s
  dsimp only
  split
  · exact (processException_keeps hrun _ (t.putPC _)).thenCost _
  · exact rfl

theorem opNop_keeps (s : State) : (opNop run s).Keeps cut s := by
  refine runHandler_keeps hrun (fun t => ?_) s
  exact rfl

theorem opTrap_keeps (n : BitVec 4) (s : State) : (opTrap run n s).Keeps cut s := by
  refine runHandler_keeps hrun (fun t => ?_) s
  exact (processException_keeps hrun _ (t.putPC _)).thenCost _

theorem opStop_keeps (s : State) : (opStop run s).Keeps cut s := by
  refine runHandler_keeps hrun (privileged_keeps hrun fun t => ?_) s
  exact (memReadHalf_keeps _ t).andThen fun _ _ => rfl

theorem opRte_keeps (s : State) : (opRte run s).Keeps cut s := by
  refine runHandler_keeps hrun (privileged_keeps hrun fun t => ?_) s
  exact (invokeHooks_keeps hrun _ _ t).andThen fun _ t => (returnFromException_keeps hrun t).thenCost _

theorem opRts_keeps (s : State) : (opRts run s).Keeps cut s := by
  refine runHandler_keeps hrun (fun t => ?_) s
  exact (invokeHooks_keeps hrun _ _ t).andThen fun _ t => (memReadWord_keeps _ t).andThen fun pc t =>
    (setPC_keeps hrun pc (t.putSP (t.sp + 4))).thenCost _

theorem opLink_keeps (an : BitVec 3) (s : State) : (opLink run an s).Keeps cut s := by
  refine runHandler_keeps hrun (fun t => ?_) s
  exact (eventLINK_keeps hrun _ t).andThen fun _ t => (memReadHalf_keeps _ t).andThen fun _ t =>
    (memWriteWord_keeps _ _ (t.putSP (t.sp - 4))).andThen fun _ _ => rfl

theorem opMoveWAbsLD0_keeps (s : State) : (opMoveWAbsLD0 run s).Keeps cut s := by
  refine runHandler_keeps hrun (fun t => ?_) s
  exact (memReadWord_keeps _ t).andThen fun a t => (memReadHalf_keeps a (t.putPC _)).andThen fun _ _ => rfl

/-- A row of the default table gives control back to the loop. -/
theorem operate_row_keeps {i : Instr} (hi : i.isOpcodeWord = true) (hd : ∀ op, i ≠ .dispatch op) (s : State) :
    (operate run i s).Keeps cut s := by
  cases i with
  | dispatch op => exact absurd rfl (hd op)
  | illegalLineA rest => exact illegalHandler_keeps hrun _ s
  | illegalLineF rest => exact illegalHandler_keeps hrun _ s
  | illegalOther line rest => exact illegalHandler_keeps hrun _ s
  | nop => exact opNop_keeps hrun s
  | stop => exact opStop_keeps hrun s
  | rte => exact opRte_keeps hrun s
  | rts => exact opRts_keeps hrun s
  | trapv => exact opTrapv_keeps hrun s
  | trap n => exact opTrap_keeps hrun n s
  | link an => exact opLink_keeps hrun an s
  | jsr eaMode eaReg => exact opJsr_keeps hrun eaMode eaReg s
  | illegal => exact illegalHandler_keeps hrun _ s
  | moveWAbsLD0 => exact opMoveWAbsLD0_keeps hrun s
  | _ => exact absurd hi Bool.false_ne_true

/-- An opcode word gives control back to the loop, its handler injected or not. -/
theorem operate_word_keeps {i : Instr} (hi : i.isOpcodeWord = true) (s : State) : (operate run i s).Keeps cut s := by
  by_cases hd : ∃ op, i = .dispatch op
  · obtain ⟨op, rfl⟩ := hd
    change (if s.prepared (.handler op) then injectedHandler run op s else defaultHandler run op s).Keeps cut s
    split
    · exact injectedHandler_keeps hrun op s
    · obtain ⟨-, -, hop, hrow⟩ := decodeWord_isRowOf op
      rw [defaultHandler_eq_operate]
      exact operate_row_keeps hrun hop hrow s
  · exact operate_row_keeps hrun hi (fun op h => hd ⟨op, h⟩) s

/-! ## The other operations -/

theorem opSetRegister_keeps (id : Nat) (value : Word) (s : State) : (opSetRegister run id value s).Keeps cut s := by
  unfold opSetRegister
  split
  · trivial
  · exact (setPC_keeps hrun value s).noAbort
  · exact rfl
  · dsimp only
    split
    · exact eventNewSP_keeps hrun _ { s with regs := _ }
    · exact rfl
  · exact rfl

theorem contextSwitch_keeps (pc : Word) (s : State) : (contextSwitch run pc s).Keeps cut s :=
  (setPC_keeps hrun pc s).noAbort.andThen fun _ t => eventNewSP_keeps hrun _ t

theorem opLoad_keeps (file : FileId) (s : State) : (opLoad run file s).Keeps cut s := by
  unfold opLoad
  split
  · trivial
  · split
    · trivial
    · exact contextSwitch_keeps hrun _ { s with regs := _ }

omit hrun in
theorem opInstallHook_keeps (kind : HookKind) (key : Nat) (cb : Callback) (s : State) :
    (opInstallHook kind key cb s).Keeps cut s := by
  unfold opInstallHook
  split
  · trivial
  · split
    · trivial
    · exact rfl

omit hrun in
theorem opRemoveHook_keeps (kind : HookKind) (key : Nat) (cb : Callback) (s : State) :
    (opRemoveHook kind key cb s).Keeps cut s := by
  unfold opRemoveHook
  split
  · trivial
  · split
    · trivial
    · exact rfl

omit hrun in
theorem opGetRegister_keeps (id : Nat) (s : State) : (opGetRegister id s).Keeps cut s := by
  unfold opGetRegister
  split
  · trivial
  · exact rfl
  · exact rfl

theorem hardwareReset_keeps (s : State) : (hardwareReset run s).Keeps True s := by
  unfold hardwareReset
  exact (memReadFullWord_keeps _ s).andThen fun _ t => (memReadFullWord_keeps _ t).andThen fun _ t =>
    setPC_keeps hrun _ { t with cyc := _, lta := _, frec := _, iter := _, regs := _, sf := _ }

theorem opReset_keeps (hardware : Bool) (s : State) : (opReset run hardware s).Keeps cut s := by
  unfold opReset
  split
  · refine Run.Keeps.noAbort (cut' := True) ?_
    split
    · exact hardwareReset_keeps hrun s
    · exact checkNewPC_keeps hrun _ { s with cyc := 0, lta := none }
  · trivial

end
end Sys2Proof.Machine
end

section
/-! PROOF. What a pass and a step of the loop do to the activations, whatever the environment does (spec 40 R80, 41 R109). -/

namespace Sys2Proof.Machine

/-! ## The innermost activation goes on -/

/-- Going on from `s`, the innermost activation has ended or goes on elsewhere, with STOP set if it idles; nobody else acts and
no other hook list is being invoked. -/
def State.GoesOn (s t : State) : Prop :=
  t.ctx = s.ctx ∧ t.busy = s.busy ∧
    (t.acts = s.acts.tail ∨ ∃ p : Phase, t.acts = p :: s.acts.tail ∧ (p.isIdle = true → t.sf.stop = true))

/-- The operation takes the innermost activation of `s` on, and is not cut short by a memory fault. -/
def Run.TakesOn {α : Type} (s : State) (r : Run α) : Prop :=
  r.Ends (fun _ t => s.GoesOn t) fun _ => False

theorem State.GoesOn.congr {s s' t : State} (h : s'.GoesOn t) (hs : s'.sequencing = s.sequencing) : s.GoesOn t := by
  obtain ⟨hctx, hbusy, hacts⟩ := State.sequencing_eq_iff.1 hs
  unfold State.GoesOn at h ⊢
  rwa [hctx, hbusy, hacts] at h

/-- What is done first keeps the sequencing fields, and the rest takes the activation on. -/
theorem Run.Keeps.andThen_takesOn {α β : Type} {s : State} {r : Run α} {f : α → State → Run β} (hr : r.Keeps False s)
    (hf : ∀ a t, (f a t).TakesOn t) : (r.andThen f).TakesOn s :=
  Run.Ends.andThen hr (fun a t ht => Run.Ends.imp (hf a t) (fun _ _ hu => hu.congr ht) fun _ hu => hu)
    fun _ h => h.1

/-- The innermost activation goes on elsewhere. -/
theorem State.goesOn_setTop (s : State) {p : Phase} (h : p.isIdle = true → s.sf.stop = true) : s.GoesOn (s.setTop p) :=
  ⟨rfl, rfl, .inr ⟨p, rfl, h⟩⟩

theorem State.goesOn_endPass (s : State) (inn : IdleIn) (stopLoop : Bool) : s.GoesOn (endPass inn stopLoop s) := by
  cases inn with
  | loop =>
    cases stopLoop with
    | true => exact ⟨rfl, rfl, .inl rfl⟩
    | false => exact s.goesOn_setTop nofun
  | special => exact ⟨rfl, rfl, .inl rfl⟩
  | port => exact ⟨rfl, rfl, .inl rfl⟩

/-! ## The branches of a pass -/

section
variable {run : Runner} {cut : Prop} (hrun : run.Keeps)
include hrun

theorem breakCheck_keeps (s : State) : (breakCheck run s).Keeps cut s :=
  (envAsk_keeps hrun _ s).andThen fun _ _ => rfl

theorem endOfCycleBranch_keeps (s : State) : (endOfCycleBranch run s).Keeps cut s := by
  unfold endOfCycleBranch
  split
  · exact envAsk_keeps hrun _ (s.putFlag .eoc false)
  · exact rfl

theorem traceFireBranch_keeps (s : State) : (traceFireBranch run s).Keeps cut s := by
  unfold traceFireBranch
  split
  · exact processException_keeps hrun _ s
  · exact rfl

omit hrun in
theorem traceArmBranch_sequencing (s : State) : (traceArmBranch s).sequencing = s.sequencing := by
  unfold traceArmBranch
  split <;> rfl

omit hrun in
theorem deferBranch_sequencing (s : State) : (deferBranch s).sequencing = s.sequencing := by
  unfold deferBranch
  split <;> rfl

theorem serviceDue_keeps (s : State) : (serviceDue run s).Keeps cut s := by
  unfold serviceDue
  split
  · exact (envAsk_keeps hrun _ s).andThen fun _ _ => rfl
  · exact rfl

theorem serviceInterrupt_keeps (idle : Bool) (s : State) : (serviceInterrupt run idle s).Keeps cut s := by
  refine (envCall_keeps hrun _ s).andThen fun a t => ?_
  dsimp only
  cases a.level with
  | none => exact rfl
  | some level =>
    dsimp only
    split_ifs
    · trivial
    · exact (processInterrupt_keeps hrun level (t.putFlag .doint false)).andThen fun _ _ => rfl
    · exact rfl

theorem interruptBranches_keeps (idle : Bool) (s : State) : (interruptBranches run idle s).Keeps cut s := by
  refine (serviceDue_keeps hrun s).andThen fun due t => ?_
  split
  · refine (serviceInterrupt_keeps hrun idle t).andThen fun _ u => ?_
    split
    · exact deferBranch_sequencing u
    · exact rfl
  · exact deferBranch_sequencing t

theorem wakeSynthesis_keeps (s : State) : (wakeSynthesis run s).Keeps cut s := by
  refine (envAsk_keeps hrun _ s).andThen fun asleep t => ?_
  split
  · refine (envAsk_keeps hrun _ t).andThen fun pending t => ?_
    split
    · exact rfl
    · exact (envAsk_keeps hrun _ t).andThen fun _ t => (envAsk_keeps hrun _ t).andThen fun _ t =>
        (envAsk_keeps hrun _ t).andThen fun _ t => (envTell_keeps hrun _ t).andThen fun _ t =>
        (envTell_keeps hrun _ t).andThen fun _ t => (envTell_keeps hrun _ t).andThen fun _ t =>
        (envTell_keeps hrun _ t).andThen fun _ t => (envTell_keeps hrun _ t).andThen fun _ t =>
        (envTell_keeps hrun _ t).andThen fun _ t => (envTell_keeps hrun _ t).andThen fun _ t =>
        envTell_keeps hrun _ t
  · exact rfl

/-! ## Idle ticks and passes -/

/-- An idle tick keeps the sequencing fields, and where the loop is to go on STOP is set (spec 41 R109). -/
def Run.Ticks (s : State) (r : Run TickEnd) : Prop :=
  r.Ends (fun e t => t.sequencing = s.sequencing ∧ (e = .again → t.sf.stop = true)) fun _ => False

omit hrun in
theorem Run.Keeps.andThen_ticks {α : Type} {s : State} {r : Run α} {f : α → State → Run TickEnd} (hr : r.Keeps False s)
    (hf : ∀ a t, (f a t).Ticks t) : (r.andThen f).Ticks s :=
  Run.Ends.andThen hr (fun a t ht => Run.Ends.imp (hf a t) (fun _ _ hu => ⟨hu.1.trans ht, hu.2⟩) fun _ hu => hu)
    fun _ h => h.1

theorem idleTick_ticks (s : State) : (idleTick run s).Ticks s :=
  (envTell_keeps hrun _ s).andThen_ticks fun _ t => (envTell_keeps hrun _ t).andThen_ticks fun _ t =>
    (envTell_keeps hrun _ t).andThen_ticks fun _ t =>
      Run.Keeps.andThen_ticks (interruptBranches_keeps hrun true (t.addCycles t.cfg.idleTick)) fun _ t =>
        (breakCheck_keeps hrun t).andThen_ticks fun b t => ⟨rfl, fun h => by
          revert h
          split_ifs with hb hstop
          · exact nofun
          · exact fun _ => hstop
          · exact nofun⟩

theorem enterStoppedLoop_ticks (s : State) : (enterStoppedLoop run s).Ticks s :=
  (wakeSynthesis_keeps hrun s).andThen_ticks fun _ t => idleTick_ticks hrun t

theorem finishPass_takesOn (inn : IdleIn) (s : State) : (finishPass run inn s).TakesOn s :=
  (breakCheck_keeps hrun s).andThen_takesOn fun b t => t.goesOn_endPass inn b

theorem afterStopBranches_keeps (s : State) : (afterStopBranches run s).Keeps cut s := by
  unfold afterStopBranches
  split
  · exact (interruptBranches_keeps hrun false _).congr (traceArmBranch_sequencing s)
  · exact rfl

theorem afterTick_takesOn (inn : IdleIn) (e : TickEnd) (s : State) (h : e = .again → s.sf.stop = true) :
    (afterTick run inn e s).TakesOn s := by
  have hidle (inn : IdleIn) (he : e = .again) : s.GoesOn (s.setTop (.idle inn)) := s.goesOn_setTop fun _ => h he
  have hleft (inn : IdleIn) : ((afterStopBranches run s).andThen fun _ t => finishPass run inn t).TakesOn s :=
    (afterStopBranches_keeps hrun s).andThen_takesOn fun _ t => finishPass_takesOn hrun inn t
  have hbroke (inn : IdleIn) : s.GoesOn (endPass inn true (s.putFlag .brk false)) :=
    ((s.putFlag .brk false).goesOn_endPass inn true).congr rfl
  cases inn with
  | port =>
    cases e with
    | again => exact hidle .port rfl
    | left => exact s.goesOn_endPass .port false
    | broke => exact s.goesOn_endPass .port true
  | loop =>
    cases e with
    | again => exact hidle .loop rfl
    | left => exact hleft .loop
    | broke => exact hbroke .loop
  | special =>
    cases e with
    | again => exact hidle .special rfl
    | left => exact hleft .special
    | broke => exact hbroke .special

omit hrun in
/-- A tick, and what follows from how it ends. -/
theorem Run.Ticks.andThen_takesOn {s : State} {r : Run TickEnd} {f : TickEnd → State → Run Unit} (hr : r.Ticks s)
    (hf : ∀ e t, (e = .again → t.sf.stop = true) → (f e t).TakesOn t) : (r.andThen f).TakesOn s :=
  Run.Ends.andThen hr (fun e t ht => Run.Ends.imp (hf e t ht.2) (fun _ _ hu => hu.congr ht.1) fun _ hu => hu)
    fun _ h => h

theorem passFromStop_takesOn (inn : IdleIn) (s : State) : (passFromStop run inn s).TakesOn s := by
  unfold passFromStop
  split
  · exact (enterStoppedLoop_ticks hrun s).andThen_takesOn (afterTick_takesOn hrun inn)
  · exact (afterStopBranches_keeps hrun s).andThen_takesOn fun _ t => finishPass_takesOn hrun inn t

theorem sequentialPass_takesOn (inn : IdleIn) (s : State) : (sequentialPass run inn s).TakesOn s := by
  refine (endOfCycleBranch_keeps hrun s).andThen_takesOn fun handled t => ?_
  split
  · exact t.goesOn_endPass inn true
  · exact (traceFireBranch_keeps hrun t).andThen_takesOn fun _ u => passFromStop_takesOn hrun inn u

theorem chainPass_takesOn (inn : IdleIn) (s : State) : (chainPass run inn s).TakesOn s := by
  unfold chainPass
  split_ifs
  · refine (endOfCycleBranch_keeps hrun s).andThen_takesOn fun handled t => ?_
    split
    · exact t.goesOn_endPass inn true
    · exact finishPass_takesOn hrun inn t
  · exact (traceFireBranch_keeps hrun s).andThen_takesOn fun _ t => finishPass_takesOn hrun inn t
  · exact passFromStop_takesOn hrun inn s
  · have hsame : Run.Keeps False s (.ok () (traceArmBranch s)) := traceArmBranch_sequencing s
    exact hsame.andThen_takesOn fun _ t => finishPass_takesOn hrun inn t
  · exact (interruptBranches_keeps hrun false s).andThen_takesOn fun _ t => finishPass_takesOn hrun inn t

theorem specialPass_takesOn (inn : IdleIn) (s : State) : (specialPass run inn s).TakesOn s := by
  unfold specialPass
  split
  · exact finishPass_takesOn hrun inn s
  · split
    · exact sequentialPass_takesOn hrun inn s
    · exact chainPass_takesOn hrun inn s

/-! ## A step of the loop -/

theorem stepA_keeps (s : State) : (stepA run s).Keeps cut s := by
  unfold stepA
  split
  · exact rfl
  · refine (envAsk_keeps hrun _ s).andThen fun hit t => ?_
    split
    · exact envTell_keeps hrun _ t
    · exact rfl

omit hrun in
/-- The slot of a word holds an opcode-word row (spec 30 R73). -/
theorem slotInstr_isOpcodeWord (s : State) (op : Half) : (slotInstr s op).isOpcodeWord = true := by
  unfold slotInstr
  split
  · rfl
  · obtain ⟨-, -, hop, -⟩ := decodeWord_isRowOf op
    exact hop

theorem stepBC_keeps {disp : Runner} (hdisp : ∀ i t, i.isOpcodeWord = true → (disp i t).Keeps False t) (s : State) :
    (stepBC disp run s).Keeps False s := by
  have hfetch := memReadHalf_keeps s.regs.pc s
  unfold stepBC
  cases hread : memReadHalf s.regs.pc s with
  | ok op t =>
    rw [hread] at hfetch
    exact (hdisp _ t (slotInstr_isOpcodeWord t op)).congr hfetch
  | abort m t =>
    rw [hread] at hfetch
    exact (memoryFault_keeps hrun m t).congr hfetch.2
  | unfinished => trivial
  | fault e => trivial
  | refused e => trivial

theorem stepD_keeps (s : State) : (stepD run s).Keeps cut s := by
  refine (envTell_keeps hrun _ s).andThen fun _ t => ?_
  dsimp only
  split_ifs
  · exact rfl
  · exact envTell_keeps hrun _ { t with iter := t.iter + 1 }
  · exact rfl

theorem stepE_takesOn (s : State) : (stepE run s).TakesOn s := by
  unfold stepE
  split
  · exact specialPass_takesOn hrun .loop s
  · exact s.goesOn_setTop nofun

theorem iteration_takesOn {disp : Runner} (hdisp : ∀ i t, i.isOpcodeWord = true → (disp i t).Keeps False t)
    (s : State) : (iteration disp run s).TakesOn s :=
  (stepA_keeps hrun s).andThen_takesOn fun _ t => (stepBC_keeps hrun hdisp t).andThen_takesOn fun _ t =>
    (stepD_keeps hrun t).andThen_takesOn fun _ t => stepE_takesOn hrun t

theorem loopStep_takesOn {disp : Runner} (hdisp : ∀ i t, i.isOpcodeWord = true → (disp i t).Keeps False t) (s : State) :
    (loopStep disp run s).TakesOn s := by
  unfold loopStep
  split
  next hacts => exact ⟨rfl, rfl, .inl (by rw [hacts]; rfl)⟩
  next => exact iteration_takesOn hrun hdisp s
  next => exact stepE_takesOn hrun s
  next => exact (idleTick_ticks hrun s).andThen_takesOn (afterTick_takesOn hrun _)

end
end Sys2Proof.Machine
end

section
/-! PROOF. The sequencing invariant (spec 41 R109, 70 R212): operations invoked by callbacks keep the sequencing fields, with
the runs of `execute()` they start, and a step takes the one activation on. -/

namespace Sys2Proof.Machine

/-! ## Operations and the runs they start -/

/-- Between `s` and `t` an operation has kept the sequencing fields but for one activation it may have started, which idles
only with STOP set. -/
def State.MayStart (s t : State) : Prop :=
  (s.push .fetch).GoesOn t

/-- The operation may start an activation; cut short by a memory fault, it has started none. -/
def Run.MayStart (s : State) (r : Run Unit) : Prop :=
  r.Ends (fun _ t => s.MayStart t) fun t => t.sequencing = s.sequencing

/-- With the sequencing fields kept, no activation has been started. -/
theorem State.mayStart_of_sequencing {s t : State} (h : t.sequencing = s.sequencing) : s.MayStart t := by
  obtain ⟨hctx, hbusy, hacts⟩ := State.sequencing_eq_iff.1 h
  exact ⟨hctx, hbusy, .inl hacts⟩

theorem Run.Keeps.mayStart {s : State} {r : Run Unit} (h : r.Keeps True s) : r.MayStart s :=
  Run.Ends.imp h (fun _ _ => State.mayStart_of_sequencing) fun _ ht => ht.2

/-- What takes on an activation just started has started it at most. -/
theorem Run.TakesOn.mayStart {s : State} {p : Phase} {r : Run Unit} (h : r.TakesOn (s.push p)) : r.MayStart s :=
  Run.Ends.imp h (fun _ _ ht => ht) fun _ hf => hf.elim

section
variable {run : Runner} (hrun : run.Keeps)
include hrun

theorem operate_mayStart (i : Instr) (s : State) : (operate run i s).MayStart s := by
  cases i with
  | execute =>
    change (if s.acts ≠ [] ∧ s.nested = false then _ else _ : Run Unit).MayStart s
    split
    · trivial
    · refine ⟨rfl, rfl, .inr ⟨_, rfl, ?_⟩⟩
      split <;> exact nofun
  | executeSpecial => exact (specialPass_takesOn hrun .special (s.push (.idle .special))).mayStart
  | executeStoppedLoop =>
    exact Run.TakesOn.mayStart (p := .idle .port)
      ((enterStoppedLoop_ticks hrun (s.push (.idle .port))).andThen_takesOn (afterTick_takesOn hrun .port))
  | breakCheck => exact Run.Keeps.mayStart ((breakCheck_keeps hrun s).andThen fun _ _ => rfl)
  | reset hardware => exact (opReset_keeps hrun hardware s).mayStart
  | processException vector => exact (processException_keeps hrun vector s).mayStart
  | processInterrupt level => exact (processInterrupt_keeps hrun level s).mayStart
  | processIllegalInstruction op => exact (processException_keeps hrun _ s).mayStart
  | busError addr size dir => exact (memoryFault_keeps hrun ⟨.bus, addr, size, dir⟩ s).mayStart
  | addressError addr size dir => exact (memoryFault_keeps hrun ⟨.address, addr, size, dir⟩ s).mayStart
  | setPC addr => exact (setPC_keeps hrun addr s).mayStart
  | getRegister id => exact (opGetRegister_keeps id s).mayStart
  | setRegister id value => exact (opSetRegister_keeps hrun id value s).mayStart
  | setRegisters regs => exact Run.Keeps.mayStart (contextSwitch_keeps hrun regs.pc { s with regs := _ })
  | load file => exact (opLoad_keeps hrun file s).mayStart
  | installHook kind key cb => exact (opInstallHook_keeps kind key cb s).mayStart
  | removeHook kind key cb => exact (opRemoveHook_keeps kind key cb s).mayStart
  | eventJSR ev => exact (eventPort_keeps hrun _ ev s).mayStart
  | eventJSRInd ev => exact (eventPort_keeps hrun _ ev s).mayStart
  | eventLINK ev => exact (eventLINK_keeps hrun ev s).mayStart
  | eventRTE ev => exact (eventPort_keeps hrun _ ev s).mayStart
  | eventRTS ev => exact (eventPort_keeps hrun _ ev s).mayStart
  | eventNewSP ev => exact (eventNewSP_keeps hrun ev s).mayStart
  | setFlag | clearFlag | enterStop | packSR | setSR | getSR | getRegisters | save | cycleCount =>
    exact ⟨rfl, rfl, .inl rfl⟩
  | dispatch | illegalLineA | illegalLineF | illegalOther | nop | stop | rte | rts | trapv | trap | link | jsr | illegal
  | moveWAbsLD0 => exact (operate_word_keeps hrun rfl s).mayStart

omit hrun in
/-- Once no activation is left above those of `s`, the sequencing fields are those of `s`. -/
theorem State.MayStart.ended {s t : State} (h : s.MayStart t) (hle : t.acts.length ≤ s.acts.length) :
    t.sequencing = s.sequencing := by
  obtain ⟨hctx, hbusy, hacts | ⟨p, hacts, -⟩⟩ := h
  · exact State.sequencing_eq_iff.2 ⟨hctx, hbusy, hacts⟩
  · rw [hacts] at hle
    exact absurd hle (Nat.not_succ_le_self _)

omit hrun in
/-- An activation started above those of `s` that is taken on is still the only one started. -/
theorem State.MayStart.goesOn {s t u : State} (h : s.MayStart t) (hlt : ¬ t.acts.length ≤ s.acts.length)
    (hu : t.GoesOn u) : s.MayStart u := by
  obtain ⟨hctx, hbusy, hacts⟩ := h
  obtain ⟨huctx, hubusy, huacts⟩ := hu
  have htail : t.acts.tail = s.acts := by
    rcases hacts with hacts | ⟨p, hacts, -⟩
    · exact absurd (congrArg List.length hacts).le hlt
    · rw [hacts]
      rfl
  rw [htail] at huacts
  exact ⟨huctx.trans hctx, hubusy.trans hbusy, huacts⟩

/-- The run of an activation started in `s`, driven to its end, leaves the sequencing fields of `s`. -/
theorem drive_keeps (n : Nat) {s t : State} (h : s.MayStart t) : (drive run s.acts.length n t).Keeps True s := by
  induction n generalizing t with
  | zero =>
    unfold drive
    split
    case isTrue hle => exact h.ended hle
    case isFalse => trivial
  | succ n ih =>
    unfold drive
    split
    case isTrue hle => exact h.ended hle
    case isFalse hlt =>
      have hloop := loopStep_takesOn hrun (fun _ u hi => operate_word_keeps hrun hi u) t
      exact Run.Ends.andThen hloop (fun _ u hu => ih (h.goesOn hlt hu)) fun _ hf => hf.elim

end

/-- What callbacks invoke keeps the sequencing fields, however deep callbacks nest. -/
theorem invoke_keeps (n : Nat) : (invoke n).Keeps := by
  induction n with
  | zero => exact fun _ _ => trivial
  | succ n ih =>
    exact fun i s => Run.Ends.andThen (operate_mayStart ih i s) (fun _ t ht => drive_keeps ih t.bound ht)
      fun _ ht => ⟨trivial, ht⟩

/-! ## At the top level -/

/-- An operation at its port is never cut short by a memory fault. -/
theorem Run.Ends.ofOutcome {P : State → Prop} {Q : State → Prop} {s : State} {r : Run Unit}
    (h : r.Ends (fun _ t => P t) Q) : (Run.ofOutcome s (r.outcome s)).Ends (fun _ t => P t) fun _ => False := by
  cases r with
  | ok a t =>
    rw [Run.outcome_ok, Run.ofOutcome]
    split
    · exact h
    · trivial
  | abort m t => trivial
  | unfinished => rw [Run.outcome_unfinished, Run.ofOutcome, if_neg s.retry_bound_ne]; trivial
  | fault e => trivial
  | refused e => trivial

theorem execRun_word_keeps {i : Instr} (hi : i.isOpcodeWord = true) (s : State) : (execRun exec i s).Keeps False s := by
  rw [execRun, exec_eq_operate]
  exact Run.Ends.imp (operate_word_keeps (cut := False) (invoke_keeps _) hi s).ofOutcome (fun _ _ ht => ht)
    fun _ hf => hf.elim

theorem execRun_mayStart (i : Instr) (s : State) : (execRun exec i s).MayStart s := by
  rw [execRun, exec_eq_operate]
  exact Run.Ends.imp (operate_mayStart (invoke_keeps _) i s).ofOutcome (fun _ _ ht => ht) fun _ hf => hf.elim

/-- A next state is that of a completed operation, or that in which it is tried again. -/
theorem Run.Ends.outcome {P : State → Prop} {Q : State → Prop} {s t : State} {r : Run Unit}
    (h : r.Ends (fun _ t => P t) Q) (hnext : r.outcome s = .next t) : P t ∨ t = s.retry := by
  rcases Run.outcome_eq_next.1 hnext with ⟨a, rfl⟩ | ⟨-, hretry⟩
  · exact .inl h
  · exact .inr hretry

/-- Trying a step again keeps the invariant. -/
theorem State.SequencingInv.retry {s : State} (h : s.SequencingInv) : s.retry.SequencingInv := h

/-- Taking on the one activation keeps the invariant. -/
theorem State.SequencingInv.goesOn {s t : State} (hctx : s.ctx = .host) (hbusy : s.busy = []) (htail : s.acts.tail = [])
    (h : s.GoesOn t) : t.SequencingInv := by
  obtain ⟨htctx, htbusy, hacts | ⟨p, hacts, hidle⟩⟩ := h
  · rw [htail] at hacts
    exact ⟨htctx.trans hctx, htbusy.trans hbusy, by simp [hacts]⟩
  · rw [htail] at hacts
    exact ⟨htctx.trans hctx, htbusy.trans hbusy, by simp [hacts], by simpa [hacts] using hidle⟩

/-- The invariant looks at the sequencing fields and STOP alone. -/
theorem State.SequencingInv.congr {s t : State} (h : s.SequencingInv) (hseq : t.sequencing = s.sequencing)
    (hstop : t.sf.stop = s.sf.stop) : t.SequencingInv := by
  obtain ⟨hctx, hbusy, hacts⟩ := State.sequencing_eq_iff.1 hseq
  rwa [State.SequencingInv, hctx, hbusy, hacts, hstop]

/-- A call that may come at any moment changes neither the sequencing fields nor STOP (spec 70 R212). -/
theorem execRun_anyMoment {i : Instr} (hi : isAnyMoment i = true) (s : State) :
    ∃ t, execRun exec i s = .ok () t ∧ t.sequencing = s.sequencing ∧ t.sf.stop = s.sf.stop := by
  cases i with
  | setFlag f =>
    cases f with
    | eoc => exact ⟨s.putFlag .eoc true, Run.ofOutcome_next rfl, rfl, rfl⟩
    | brk => exact ⟨s.putFlag .brk true, Run.ofOutcome_next rfl, rfl, rfl⟩
    | _ => exact absurd hi Bool.false_ne_true
  | cycleCount => exact ⟨s.returns (.word s.cyc), Run.ofOutcome_next rfl, rfl, rfl⟩
  | _ => exact absurd hi Bool.false_ne_true

/-- While an activation is in progress, a call taken at the port is one that may come at any moment (spec 70 R212). -/
theorem isAnyMoment_of_taken {s : State} {i : Instr} (hacts : s.acts ≠ []) (h : (portCtx s).refusesCall i = none) :
    isAnyMoment i = true := by
  rw [portCtx, if_neg hacts, Ctx.refusesCall] at h
  by_contra hany
  rw [if_neg hany] at h
  exact absurd h nofun

/-- A step of the loop keeps the invariant. -/
theorem State.SequencingInv.loopStep {s t : State} (h : s.SequencingInv)
    (hstep : (Machine.loopStep (execRun exec) s.runner s).outcome s = .next t) : t.SequencingInv := by
  have ⟨hctx, hbusy, hlen, _⟩ := h
  have htail : s.acts.tail = [] := List.length_eq_zero_iff.1 (by rw [List.length_tail]; omega)
  have hloop := loopStep_takesOn (invoke_keeps s.answers.length) (fun _ u hi => execRun_word_keeps hi u) s
  rcases hloop.outcome hstep with hgo | rfl
  · exact .goesOn hctx hbusy htail hgo
  · exact h.retry

/-- A call taken at the port keeps the invariant: with no activation in progress it may start one, else it is one that may
come at any moment. -/
theorem State.SequencingInv.portCall {s t : State} {i : Instr} {rest : List Call} (h : s.SequencingInv)
    (htaken : (portCtx s).refusesCall i = none)
    (hstep : (execRun exec i { s with port := rest }).outcome s = .next t) : t.SequencingInv := by
  have ⟨hctx, hbusy, _, _⟩ := h
  by_cases hacts : s.acts = []
  · rcases (execRun_mayStart i { s with port := rest }).outcome hstep with hgo | rfl
    · exact .goesOn (s := State.push { s with port := rest } .fetch) hctx hbusy hacts hgo
    · exact h.retry
  · obtain ⟨u, hrun, hseq, hstop⟩ := execRun_anyMoment (isAnyMoment_of_taken hacts htaken) { s with port := rest }
    rw [hrun, Run.outcome_ok] at hstep
    cases hstep
    exact h.congr hseq hstop

/-- Settles O60: a step is the loop's, or takes a call at the port that is not refused. -/
theorem stepKeepsSequencing : Obligations.StepKeepsSequencing := by
  intro s t hinv hstep
  cases hport : s.port with
  | nil => exact hinv.loopStep ((step_eq_loopStep hport).symm.trans hstep)
  | cons i rest =>
    simp only [step, stepFrom, hport] at hstep
    split at hstep
    · cases hstep
    · exact hinv.portCall ‹_› hstep

end Sys2Proof.Machine
end

section
/-! PROOF. A pass that `ExecuteSpecial()` makes by itself in an observing environment (spec 41 R100 to R108, R115). -/

namespace Sys2Proof.Machine

/-! ## The flags an exception leaves alone -/

/-- An exception that no hook handles is entered with the frame of its vector (spec 60 R162, R164). -/
theorem Takes.entersBy {v : Nat} {s t : State} (h : Takes v s t) (hh : s.handles v = false) :
    ∃ size, EntersBy size v s t := by
  obtain ⟨hlong, hshort⟩ := h.1 hh
  cases hl : hasLongFrame v with
  | true => exact ⟨14, (hlong hl).1⟩
  | false => exact ⟨6, (hshort hl).1⟩

/-- An exception entry clears the trace state (spec 60 R167). -/
theorem EntersBy.sf_eq {size : Word} {v : Nat} {s t : State} (h : EntersBy size v s t) :
    t.sf = { s.sf with trace := false, dotrace := false } := congrArg State.sf h

/-- Taking an exception changes no special flag but those of the trace (spec 60 R167). -/
theorem Takes.sf_eq {v : Nat} {s t : State} (h : Takes v s t) :
    { t.sf with trace := s.sf.trace, dotrace := s.sf.dotrace } = s.sf := by
  cases hh : s.handles v with
  | true =>
    rw [h.2 hh]
    exact congrArg (fun f : SpecialFlags => { f with trace := s.sf.trace, dotrace := s.sf.dotrace }) (s.calledAll_sf _)
  | false =>
    obtain ⟨size, hby⟩ := h.entersBy hh
    rw [hby.sf_eq]

theorem FiresTrace.stop {s t : State} (h : FiresTrace s t) : t.sf.stop = s.sf.stop := by
  by_cases hfires : s.sf.dotrace = true ∧ s.sf.stop = false
  · exact (congrArg SpecialFlags.stop (h.1 hfires).sf_eq :)
  · rw [h.2 (by simpa [imp_iff_not_or] using hfires)]

/-- What the trace-fire branch does not change. -/
theorem FiresTrace.keeps {s t : State} (h : FiresTrace s t) : s.SameFrame t := by
  by_cases hfires : s.sf.dotrace = true ∧ s.sf.stop = false
  · exact (h.1 hfires).keeps
  · rw [h.2 (by simpa [imp_iff_not_or] using hfires)]
    simp [State.SameFrame]

/-- With DOTRACE clear no trace exception is taken. -/
theorem FiresTrace.eq_of_clear {s t : State} (h : FiresTrace s t) (hd : s.sf.dotrace = false) : t = s :=
  h.2 (.inl hd)

/-! ## The pass and its activation -/

/-- The state after a pass that ends with its break check, and returns the result (spec 41 R108). -/
def State.passReturned (s : State) : State :=
  { s.breakChecked with ret := some (.bool s.breaks) }

theorem exec_executeSpecial (s : State) :
    exec .executeSpecial s = (specialPass s.runner .special (s.push (.idle .special))).outcome s := rfl

theorem State.withActs_endOfCycled (s : State) (p : List Phase) :
    (s.withActs p).endOfCycled = s.endOfCycled.withActs p := by
  change (if s.sf.eoc then _ else _ : State) = State.withActs (if s.sf.eoc then _ else _) p
  split <;> rfl

theorem State.withActs_traceArmed (s : State) (p : List Phase) :
    (s.withActs p).traceArmed = s.traceArmed.withActs p := by
  change (if s.sf.trace = true ∧ s.regs.t1 = true then _ else _ : State) =
    State.withActs (if s.sf.trace = true ∧ s.regs.t1 = true then _ else _) p
  split <;> rfl

theorem State.traceArmed_cfg (s : State) : s.traceArmed.cfg = s.cfg := by
  unfold State.traceArmed
  split <;> rfl

theorem State.traceArmed_acts (s : State) : s.traceArmed.acts = s.acts := by
  unfold State.traceArmed
  split <;> rfl

/-- The end of a pass in `t`, the activations around it those of `s`. -/
theorem finishPass_returns (run : Runner) {s t : State} {p : Phase} (hacts : t.acts = p :: s.acts) (h : t.Observing) :
    (finishPass run .special t).outcome s = .next (t.withActs s.acts).passReturned :=
  finishPass_special run hacts h

/-- The activation of a pass put on and taken off again. -/
theorem State.push_withActs {s t : State} (hacts : t.acts = s.acts) (p : Phase) : (t.push p).withActs s.acts = t :=
  congrArg (State.withActs t) hacts.symm

theorem State.endOfCycled_push (s : State) (p : Phase) : (s.push p).endOfCycled = s.endOfCycled.push p :=
  (s.withActs_endOfCycled (p :: s.acts)).trans
    (congrArg (fun outer => s.endOfCycled.withActs (p :: outer)) s.endOfCycled_acts.symm)

/-! ## Sequential passes -/

/-- From the trace-fire branch on, with STOP clear: the trace exception, arming the trace, the interrupt service, the
deferral, the break check (spec 41 R103 to R108). -/
theorem sequential_afterEndOfCycle (run : Runner) {s t : State} {p : Phase} (hacts : t.acts = s.acts)
    (hobs : t.Observing) (heval : t.cfg.scEval = .sequential) (hstop : t.sf.stop = false)
    (htrace : t.sf.dotrace = true → t.CanTake 9) (hserve : ∀ u, FiresTrace t u → u.traceArmed.CanServe) :
    ∃ u w, FiresTrace t u ∧ Serves false u.traceArmed w ∧
      ((traceFireBranch run (t.push p)).andThen fun _ u => passFromStop run .special u).outcome s =
        .next w.deferred.passReturned := by
  obtain ⟨u, hfire, hfires, huobs⟩ := traceFireBranch_fires run (s := t.push p) hobs fun hd _ => htrace hd
  have hback : FiresTrace t (u.withActs s.acts) := State.push_withActs hacts p ▸ hfires.withActs s.acts
  obtain ⟨-, -, hucfg, huacts, -⟩ := hfires.keeps
  have hserve' : u.traceArmed.CanServe := by
    have := hserve _ hback
    rwa [State.withActs_traceArmed] at this
  obtain ⟨w, hserves, hwobs, ⟨-, hwacts⟩, hbranches⟩ := interruptBranches_observing run false huobs.traceArmed hserve'
  have hseq : u.traceArmed.cfg.scEval = .sequential := by rw [State.traceArmed_cfg, hucfg]; exact heval
  rw [if_neg (by simp [hseq])] at hbranches
  refine ⟨u.withActs s.acts, w.withActs s.acts, hback, ?_, ?_⟩
  · rw [State.withActs_traceArmed]
    exact hserves.withActs _
  · have hafter : afterStopBranches run u = interruptBranches run false u.traceArmed := by
      simp only [afterStopBranches, hucfg, State.push_cfg, heval, traceArmBranch_eq]
    rw [hfire, Run.andThen_ok, passFromStop, if_neg (by simp [hfires.stop, hstop]), hafter, hbranches, Run.andThen_ok]
    have hwacts' : w.acts = p :: s.acts := by
      rw [hwacts, State.traceArmed_acts, huacts]
      exact congrArg (List.cons p) hacts
    exact finishPass_returns run hwacts' hwobs.deferred

/-- Arming the trace and the deferral, flag by flag (spec 41 R105, R107). -/
theorem State.traceArmed_deferred {s : State} (hdotrace : s.sf.dotrace = false) (hdoint : s.sf.doint = false) :
    s.traceArmed.deferred =
      { s with
        lta := if s.sf.trace && s.regs.t1 then some s.regs.pc else s.lta
        sf := { s.sf with
          trace := s.sf.trace && !s.regs.t1
          dotrace := s.sf.trace && s.regs.t1
          int := false
          doint := s.sf.int } } := by
  unfold State.traceArmed State.deferred
  cases htrace : s.sf.trace <;> cases ht1 : s.regs.t1 <;> simp [hdotrace, hdoint, htrace]

theorem State.endOfCycled_cfg (s : State) : s.endOfCycled.cfg = s.cfg := by
  unfold State.endOfCycled
  split <;> rfl

theorem State.endOfCycled_dotrace (s : State) : s.endOfCycled.sf.dotrace = s.sf.dotrace := by
  unfold State.endOfCycled
  split <;> rfl

/-- With END_OF_CYCLE clear its branch does nothing. -/
theorem State.endOfCycled_of_clear {s : State} (h : s.sf.eoc = false) : s.endOfCycled = s :=
  if_neg (by simp [h])

/-- A sequential pass whose end-of-cycle branch has made `t` of `s`, without "handled, stop" and with STOP clear (spec 41
R100, R103 to R108). -/
theorem exec_special_afterEndOfCycle {s t : State} (hacts : t.acts = s.acts)
    (hbranch : endOfCycleBranch s.runner (s.push (.idle .special)) = .ok false (t.push (.idle .special)))
    (hobs : t.Observing) (hnested : s.nested = false) (heval : s.cfg.scEval = .sequential) (hcfg : t.cfg = s.cfg)
    (hstop : t.sf.stop = false) (htrace : t.sf.dotrace = true → t.CanTake 9)
    (hserve : ∀ u, FiresTrace t u → u.traceArmed.CanServe) :
    ∃ u w, FiresTrace t u ∧ Serves false u.traceArmed w ∧ exec .executeSpecial s = .next w.deferred.passReturned := by
  have hpass : specialPass s.runner .special (s.push (.idle .special)) =
      (traceFireBranch s.runner (t.push (.idle .special))).andThen fun _ u => passFromStop s.runner .special u := by
    simp [specialPass, hnested, heval, sequentialPass, hbranch]
  rw [exec_executeSpecial, hpass]
  exact sequential_afterEndOfCycle s.runner hacts hobs (hcfg ▸ heval) hstop htrace hserve

/-- The same where neither DOTRACE nor DOINT is set: arming the trace, the deferral, the break check (spec 41 R105, R107,
R108). -/
theorem exec_special_unflagged {s t : State} (hacts : t.acts = s.acts)
    (hbranch : endOfCycleBranch s.runner (s.push (.idle .special)) = .ok false (t.push (.idle .special)))
    (hobs : t.Observing) (hnested : s.nested = false) (heval : s.cfg.scEval = .sequential) (hcfg : t.cfg = s.cfg)
    (hstop : t.sf.stop = false) (hdotrace : t.sf.dotrace = false) (hdoint : t.sf.doint = false) :
    exec .executeSpecial s = .next t.traceArmed.deferred.passReturned := by
  have hdoint' : t.traceArmed.sf.doint = false := by
    unfold State.traceArmed
    split <;> exact hdoint
  obtain ⟨u, w, hfires, hserves, hpass⟩ := exec_special_afterEndOfCycle hacts hbranch hobs hnested heval hcfg hstop
    (fun hd => absurd hd (by simp [hdotrace]))
    (fun u hu => hu.eq_of_clear hdotrace ▸ State.canServe_of_clear hdoint')
  obtain rfl := hfires.eq_of_clear hdotrace
  rwa [hserves.1 hdoint'] at hpass

/-- The end-of-cycle branch of a pass by itself whose callback, if it is called, only replies (spec 41 R102). -/
theorem endOfCycleBranch_push (run : Runner) {s : State} (hobs : s.Observing) (p : Phase) :
    endOfCycleBranch run (s.push p) = .ok (s.sf.eoc && (s.answer (.onEndOfCycle false)).yes) (s.endOfCycled.push p) := by
  rw [endOfCycleBranch_observing run (s := s.push p) hobs, State.endOfCycled_push]
  rfl

/-- A sequential pass with STOP clear and no "handled, stop" (spec 41 R100, R102 to R108). -/
theorem exec_special_sequential {s : State} (hobs : s.Observing) (hnested : s.nested = false)
    (heval : s.cfg.scEval = .sequential) (hstop : s.sf.stop = false)
    (heoc : s.sf.eoc = true → (s.answer (.onEndOfCycle false)).yes = false)
    (htrace : s.sf.dotrace = true → s.endOfCycled.CanTake 9)
    (hserve : ∀ u, FiresTrace s.endOfCycled u → u.traceArmed.CanServe) :
    ∃ u w, FiresTrace s.endOfCycled u ∧ Serves false u.traceArmed w ∧
      exec .executeSpecial s = .next w.deferred.passReturned := by
  have hbranch := endOfCycleBranch_push s.runner hobs (.idle .special)
  rw [Bool.and_eq_false_imp.2 heoc] at hbranch
  exact exec_special_afterEndOfCycle s.endOfCycled_acts hbranch hobs.endOfCycled hnested heval s.endOfCycled_cfg
    (s.endOfCycled_stop.trans hstop) (fun hd => htrace (s.endOfCycled_dotrace.symm.trans hd)) hserve

/-! ## Passes under `chain` -/

/-- A pass under `chain` with END_OF_CYCLE and STOP clear takes the trace exception where DOTRACE is set (spec 41 R103,
R115). -/
theorem exec_special_chain_fires {s : State} (hnested : s.nested = false) (heval : s.cfg.scEval = .chain)
    (heoc : s.sf.eoc = false) (hstop : s.sf.stop = false) (hdotrace : s.sf.dotrace = true) (hcan : s.CanTake 9) :
    ∃ u, Takes 9 s u ∧ exec .executeSpecial s = .next u.passReturned := by
  have hobs : s.Observing := hcan.2.1
  obtain ⟨u, hbranch, hfires, huobs⟩ :=
    traceFireBranch_fires s.runner (s := s.push (.idle .special)) hobs fun _ _ => hcan
  have htakes : Takes 9 (s.push (.idle .special)) u := hfires.1 ⟨hdotrace, hstop⟩
  have hpass : specialPass s.runner .special (s.push (.idle .special)) = finishPass s.runner .special u := by
    simp [specialPass, hnested, heval, chainPass, heoc, traceFires, hdotrace, hstop, hbranch]
  refine ⟨u.withActs s.acts, htakes.withActs s.acts, ?_⟩
  obtain ⟨-, -, -, huacts, -⟩ := htakes.keeps
  rw [exec_executeSpecial, hpass]
  exact finishPass_returns s.runner huacts huobs

/-- Such a pass with DOTRACE clear arms the trace where TRACE and T1 are set (spec 41 R105, R115). -/
theorem exec_special_chain_arms {s : State} (hobs : s.Observing) (hnested : s.nested = false)
    (heval : s.cfg.scEval = .chain) (heoc : s.sf.eoc = false) (hstop : s.sf.stop = false) (hdotrace : s.sf.dotrace = false)
    (harms : s.sf.trace = true ∧ s.regs.t1 = true) :
    exec .executeSpecial s = .next s.traceArmed.passReturned := by
  have hpass : specialPass s.runner .special (s.push (.idle .special)) =
      finishPass s.runner .special (s.push (.idle .special)).traceArmed := by
    simp [specialPass, hnested, heval, chainPass, heoc, traceFires, hdotrace, hstop, traceArms, harms, traceArmBranch_eq]
  have hback : (s.push (.idle .special)).traceArmed.withActs s.acts = s.traceArmed := by
    rw [← State.withActs_traceArmed]
    rfl
  rw [exec_executeSpecial, hpass, finishPass_returns s.runner (State.traceArmed_acts _)
    (State.Observing.traceArmed (s := s.push (.idle .special)) hobs), hback]

/-- Such a pass with nothing of the trace to do serves an interrupt, or, where no service runs, defers (spec 41 R106, R107,
R115). -/
theorem exec_special_chain_serves {s : State} (hobs : s.Observing) (hnested : s.nested = false)
    (heval : s.cfg.scEval = .chain) (heoc : s.sf.eoc = false) (hstop : s.sf.stop = false) (hdotrace : s.sf.dotrace = false)
    (harms : s.sf.trace = false ∨ s.regs.t1 = false) (hcan : s.CanServe) :
    ∃ u, Serves false s u ∧
      exec .executeSpecial s = .next (if s.serves then u else u.deferred).passReturned := by
  obtain ⟨u, hserves, huobs, ⟨-, huacts⟩, hbranches⟩ :=
    interruptBranches_observing s.runner false (s := s.push (.idle .special)) hobs hcan
  have harms' : (s.sf.trace && s.regs.t1) = false := Bool.and_eq_false_iff.2 harms
  have hpass : specialPass s.runner .special (s.push (.idle .special)) =
      finishPass s.runner .special (if s.serves then u else u.deferred) := by
    have hbranches' : interruptBranches s.runner false (s.push (.idle .special)) =
        .ok () (if s.serves then u else u.deferred) := by
      rw [hbranches]
      exact congrArg (Run.ok ()) (if_congr (and_iff_right heval) rfl rfl)
    simp [specialPass, hnested, heval, chainPass, heoc, traceFires, hdotrace, hstop, traceArms, harms', hbranches']
  refine ⟨u.withActs s.acts, hserves.withActs s.acts, ?_⟩
  rw [exec_executeSpecial, hpass]
  cases s.serves with
  | true => exact finishPass_returns s.runner huacts huobs
  | false => exact finishPass_returns s.runner huacts huobs.deferred

/-! ## What the obligations say of a pass -/

/-- Settles O46: the break check at its port, and as the whole of a nested pass. -/
theorem breakCheckAndNestedPassReturnBrkOrQuery : Obligations.BreakCheckAndNestedPassReturnBrkOrQuery := by
  rintro s i hobs (rfl | ⟨rfl, hnested⟩)
  · have hcheck : operate s.runner .breakCheck s = .ok () s.passReturned := by
      change (breakCheck s.runner s).andThen _ = _
      rw [breakCheck_breaks _ hobs]
      rfl
    exact ⟨_, exec_of_completes hcheck, rfl, rfl⟩
  · have hpass : specialPass s.runner .special (s.push (.idle .special)) =
        finishPass s.runner .special (s.push (.idle .special)) := if_pos hnested
    refine ⟨s.passReturned, ?_, rfl, rfl⟩
    rw [exec_executeSpecial, hpass]
    exact finishPass_returns s.runner rfl hobs

/-- Settles O48: an unflagged sequential pass by the clear rest of the pass, any other by `exec_special_sequential`; a pass
under `chain` by the branch it takes. -/
theorem passArmsTraceAndDefersInterrupt : Obligations.PassArmsTraceAndDefersInterrupt := by
  refine ⟨?clear, fun s hobs hnested heval hstop heoc htrace hserve =>
    exec_special_sequential hobs hnested heval hstop heoc htrace hserve, ?chain⟩
  case clear =>
    intro s hobs hnested heval heoc hdotrace hstop hdoint
    have hbranch : endOfCycleBranch s.runner (s.push (.idle .special)) = .ok false (s.push (.idle .special)) :=
      if_neg (by simp [heoc])
    have hexec := exec_special_unflagged rfl hbranch hobs hnested heval rfl hstop hdotrace hdoint
    rw [State.traceArmed_deferred hdotrace hdoint] at hexec
    exact ⟨_, hexec, rfl, rfl⟩
  case chain =>
    intro s hobs hnested heval heoc hstop
    refine ⟨fun hdotrace hcan => exec_special_chain_fires hnested heval heoc hstop hdotrace hcan,
      fun hdotrace harms => ?arms, fun hdotrace harms hcan => ?serves⟩
    case arms =>
      rw [exec_special_chain_arms hobs hnested heval heoc hstop hdotrace harms, State.traceArmed, if_pos harms]
      rfl
    case serves =>
      obtain ⟨u, hserves, hpass⟩ := exec_special_chain_serves hobs hnested heval heoc hstop hdotrace harms hcan
      exact ⟨u, _, hserves, rfl, hpass⟩

/-! ## The end of a cycle -/

/-- A pass whose end-of-cycle callback answers "handled, stop" returns true at once, under both readings of SC_EVAL (spec 41
R102). -/
theorem exec_special_handled {s t : State}
    (hbranch : endOfCycleBranch s.runner (s.push (.idle .special)) = .ok true (t.push (.idle .special)))
    (hnested : s.nested = false) (heoc : s.sf.eoc = true) : exec .executeSpecial s = .next (t.returns (.bool true)) := by
  have hpass : specialPass s.runner .special (s.push (.idle .special)) =
      .ok () (endPass .special true (t.push (.idle .special))) := by
    cases heval : s.cfg.scEval with
    | sequential => simp [specialPass, hnested, heval, sequentialPass, hbranch]
    | chain => simp [specialPass, hnested, heval, chainPass, heoc, hbranch]
  rw [exec_executeSpecial, hpass]
  rfl

/-- A pass under `chain` whose end-of-cycle callback does not answer "handled, stop" makes its break check (spec 41 R102,
R115). -/
theorem exec_special_chain_endOfCycle {s t : State} (hacts : t.acts = s.acts)
    (hbranch : endOfCycleBranch s.runner (s.push (.idle .special)) = .ok false (t.push (.idle .special)))
    (hobs : t.Observing) (hnested : s.nested = false) (heval : s.cfg.scEval = .chain) (heoc : s.sf.eoc = true) :
    exec .executeSpecial s = .next t.passReturned := by
  have hpass : specialPass s.runner .special (s.push (.idle .special)) =
      finishPass s.runner .special (t.push (.idle .special)) := by
    simp [specialPass, hnested, heval, chainPass, heoc, hbranch]
  rw [exec_executeSpecial, hpass,
    finishPass_returns s.runner (t := t.push (.idle .special)) (congrArg (List.cons _) hacts) hobs,
    State.push_withActs hacts]

/-- A callback that acts is a prepared answer, which the runner is deep enough for (log 11). -/
theorem State.runner_of_acts {s : State} {c : EnvCall} (h : (s.answer c).acts ≠ []) : ∃ n, s.runner = invoke (n + 1) := by
  unfold State.runner
  cases hans : s.answers with
  | nil =>
    refine absurd ?_ h
    rw [State.answer, hans]
    rfl
  | cons e t => exact ⟨t.length, rfl⟩

/-- The end-of-cycle branch of a pass by itself whose callback sets the flag again (spec 41 R102). -/
theorem endOfCycleBranch_raises {s : State} (heoc : s.sf.eoc = true)
    (hacts : (s.answer (.onEndOfCycle false)).acts = [raiseEOC]) (p : Phase) :
    endOfCycleBranch s.runner (s.push p) =
      .ok (s.answer (.onEndOfCycle false)).yes ((s.called (.onEndOfCycle false)).push p) := by
  obtain ⟨n, hrunner⟩ := State.runner_of_acts (s := s) (c := .onEndOfCycle false) (by simp [hacts])
  rw [hrunner]
  exact endOfCycleBranch_raised n (s := s.push p) heoc hacts

/-- Settles O47: the end-of-cycle branch makes of the state that with the flag cleared, or set again; what the pass does then
depends on the reply and the reading alone. -/
theorem endOfCycleHandledStopsThePass : Obligations.EndOfCycleHandledStopsThePass := by
  refine ⟨fun s hobs hnested heoc => ?replies, ?raises⟩
  case replies =>
    have hbranch := endOfCycleBranch_push s.runner hobs (.idle .special)
    rw [heoc, Bool.true_and] at hbranch
    have hcleared : s.endOfCycled = { s.called (.onEndOfCycle false) with sf := { s.sf with eoc := false } } :=
      if_pos heoc
    refine ⟨fun hyes => ?_, fun hno heval => ?_⟩
    · rw [hyes] at hbranch
      have hexec := exec_special_handled hbranch hnested heoc
      rw [hcleared] at hexec
      exact ⟨_, hexec, rfl, rfl⟩
    · rw [hno] at hbranch
      have hexec := exec_special_chain_endOfCycle s.endOfCycled_acts hbranch hobs.endOfCycled hnested heval heoc
      rw [hcleared] at hexec
      exact ⟨_, hexec, rfl, rfl⟩
  case raises =>
    rintro s s1 hnested heoc rfl hobs hacts
    have hbranch := endOfCycleBranch_raises heoc hacts (.idle .special)
    refine ⟨fun hyes => ?_, fun hno heval => ?_, fun hno heval hdotrace hstop hdoint => ?_⟩
    · rw [hyes] at hbranch
      exact ⟨_, exec_special_handled (t := s.called (.onEndOfCycle false)) hbranch hnested heoc, heoc, rfl, rfl⟩
    · rw [hno] at hbranch
      have hexec := exec_special_chain_endOfCycle (s := s) (t := s.called (.onEndOfCycle false)) rfl hbranch hobs hnested
        heval heoc
      exact ⟨_, hexec, heoc, rfl, rfl⟩
    · rw [hno] at hbranch
      have hexec := exec_special_unflagged (s := s) (t := s.called (.onEndOfCycle false)) rfl hbranch hobs hnested heval
        rfl hstop hdotrace hdoint
      rw [State.traceArmed_deferred (s := s.called (.onEndOfCycle false)) hdotrace hdoint] at hexec
      exact ⟨_, hexec, heoc, rfl, rfl⟩

/-! ## The trace exception alone -/

/-- With TRACE clear arming the trace changes nothing (spec 41 R105). -/
theorem State.traceArmed_of_clear {s : State} (h : s.sf.trace = false) : s.traceArmed = s :=
  if_neg (by simp [h])

theorem State.passReturned_eq {s : State} {brk : Bool} (h : s.sf.brk = brk) :
    s.passReturned =
      { s with
        answers := dropAnswer .sessionShouldBreak s.answers
        calls := .sessionShouldBreak :: s.calls
        ret := some (.bool (brk || (s.answer .sessionShouldBreak).yes)) } := by
  rw [← h]
  rfl

/-- A trace exception that no hook handles, taken with nothing but DOTRACE and BRK set, leaves nothing but BRK set (spec 60
R167). -/
theorem Takes.sf_of_traceAlone {s u : State} (h : Takes 9 s u) (hhandles : s.handles 9 = false)
    (hsf : s.sf = { SpecialFlags.none with dotrace := true, brk := s.sf.brk }) :
    u.sf = { SpecialFlags.none with brk := s.sf.brk } := by
  obtain ⟨_, hby⟩ := h.entersBy hhandles
  rw [hby.sf_eq, hsf]
  rfl

/-- A pass with nothing but DOTRACE and BRK set takes the trace exception, which leaves the later branches nothing to do, and
makes its break check, under both readings of SC_EVAL (spec 41 R103). -/
theorem exec_special_traceAlone {s : State} (hnested : s.nested = false) (hcan : s.CanTake 9)
    (hhandles : s.handles 9 = false) (hsf : s.sf = { SpecialFlags.none with dotrace := true, brk := s.sf.brk }) :
    ∃ u, Takes 9 s u ∧ exec .executeSpecial s = .next u.passReturned := by
  have heoc : s.sf.eoc = false := by rw [hsf]; rfl
  have hstop : s.sf.stop = false := by rw [hsf]; rfl
  have hdotrace : s.sf.dotrace = true := by rw [hsf]
  cases heval : s.cfg.scEval with
  | chain => exact exec_special_chain_fires hnested heval heoc hstop hdotrace hcan
  | sequential =>
    have htaken {u : State} (hu : FiresTrace s.endOfCycled u) : Takes 9 s u := by
      rw [State.endOfCycled_of_clear heoc] at hu
      exact hu.1 ⟨hdotrace, hstop⟩
    have hleft {u : State} (hu : FiresTrace s.endOfCycled u) : u.sf = { SpecialFlags.none with brk := s.sf.brk } :=
      (htaken hu).sf_of_traceAlone hhandles hsf
    have harmed {u : State} (hu : FiresTrace s.endOfCycled u) : u.traceArmed = u :=
      State.traceArmed_of_clear (by rw [hleft hu]; rfl)
    have hdoint {u : State} (hu : FiresTrace s.endOfCycled u) : u.sf.doint = false := by rw [hleft hu]; rfl
    obtain ⟨u, w, hfires, hserves, hexec⟩ := exec_special_sequential hcan.2.1 hnested heval hstop
      (fun h => absurd h (by simp [heoc])) (fun _ => by rwa [State.endOfCycled_of_clear heoc])
      (fun u hu => (harmed hu).symm ▸ State.canServe_of_clear (hdoint hu))
    rw [harmed hfires] at hserves
    obtain rfl := hserves.1 (hdoint hfires)
    rw [State.deferred_of_clear (by rw [hleft hfires]; rfl)] at hexec
    exact ⟨w, htaken hfires, hexec⟩

/-- Settles O49: the trace exception alone, and what its entry leaves. -/
theorem passFiresTrace : Obligations.PassFiresTrace := by
  intro s hnested hcan hhandles hsf
  obtain ⟨u, htakes, hexec⟩ := exec_special_traceAlone hnested hcan hhandles hsf
  have hleft := htakes.sf_of_traceAlone hhandles hsf
  obtain ⟨_, hby⟩ := htakes.entersBy hhandles
  rw [State.passReturned_eq (congrArg SpecialFlags.brk hleft)] at hexec
  exact ⟨u, htakes.1 hhandles, congrArg SpecialFlags.dotrace hleft, congrArg (fun t => t.regs.t1) hby,
    congrArg (fun t => t.regs.t0) hby, hexec⟩

end Sys2Proof.Machine
end

section
/-! PROOF. The interrupt service alone, in a pass and in an idle tick, and the stopped loop (spec 41 R106, R107, R109 to
R111). -/

namespace Sys2Proof.Machine

/-! ## The service branch and the deferral -/

/-- What the deferral, left out under `chain` where the service ran, makes of the request (spec 41 R107, R115). -/
theorem State.deferred_unless_chain {s t : State} (hserves : s.serves = true) (hdoint : t.sf.doint = false) :
    (if s.cfg.scEval = .chain ∧ s.serves = true then t else t.deferred) =
      { t with sf := { t.sf with
          int := t.sf.int && decide (s.cfg.scEval = ScEval.chain)
          doint := t.sf.int && decide (s.cfg.scEval = ScEval.sequential) } } := by
  cases heval : s.cfg.scEval with
  | sequential => simp [State.deferred, hdoint]
  | chain =>
    simp only [hserves, and_self, if_true, decide_true, Bool.and_true, reduceCtorEq, decide_false, Bool.and_false]
    rw [← hdoint]

/-- A level that the service branch would serve can be served where its vector can be taken (spec 60 R174). -/
theorem State.canServe_of_level {s : State} {l v : Nat} (hlevel : s.levelRead = some l) (hl : l ≤ 7)
    (hv : (v : Int) = s.levelSampled.baseRead + l) (hcan : (s.levelSampled.called .interruptVectorBase).CanTake v) :
    s.CanServe := by
  intro _ l' hlevel' _
  obtain rfl : l = l' := Option.some.inj (hlevel.symm.trans hlevel')
  exact ⟨hl, v, hv, hcan⟩

/-- With DOINT set the deferral clears INT (spec 41 R107). -/
theorem State.deferred_of_doint {s : State} (h : s.sf.doint = true) :
    s.deferred = { s with sf := { s.sf with int := false } } := by
  rw [State.deferred, h, Bool.true_or, ← h]

/-- The state after an interrupt has been served, in a pass or an idle tick: the mask set, STOPPED cleared, in a tick STOP
too, and the request flagged again as the reading of SC_EVAL has it (spec 41 R106, R107, R111, R115; 60 R174). -/
def State.interruptServed (u : State) (idle : Bool) (level : Nat) (eval : ScEval) : State :=
  { u with
    regs := { u.regs with imask := BitVec.ofNat 3 level, stopped := false }
    sf := { u.sf with
      stop := if idle then false else u.sf.stop
      int := decide (eval = ScEval.chain)
      doint := decide (eval = ScEval.sequential) } }

/-- Serving a level above IMASK takes its vector (spec 41 R106, R111). -/
theorem Serves.above {idle : Bool} {s t : State} {l v : Nat} (h : Serves idle s t) (hserves : s.serves = true)
    (hlevel : s.levelRead = some l) (hmask : s.regs.imask.toNat < l) (hv : (v : Int) = s.levelSampled.baseRead + l) :
    ∃ u, Takes v (s.levelSampled.called .interruptVectorBase) u ∧
      (if s.cfg.scEval = .chain ∧ s.serves = true then t else t.deferred) = u.interruptServed idle l s.cfg.scEval := by
  obtain ⟨-, -, -, hserved⟩ := h
  obtain ⟨u, htakes, ht⟩ := hserved l v hserves hlevel hmask hv
  have hdoint : t.sf.doint = false := by
    rw [ht]
    exact (congrArg SpecialFlags.doint htakes.sf_eq :)
  refine ⟨u, htakes, ?_⟩
  rw [State.deferred_unless_chain hserves hdoint, ht]
  cases idle with
  | true => simp [State.interruptServed]
  | false => simp [State.interruptServed]

/-- Settles O53: the interrupt branches of an idle tick, with a level to serve. -/
theorem idleCheckServesInterruptAndClearsStop : Obligations.IdleCheckServesInterruptAndClearsStop := by
  rintro run s s1 s2 l v hobs hdoint hlatch rfl hlevel hmask hl rfl hv hcan
  have hserves : s.serves = true := by simp [State.serves, hdoint, hlatch]
  obtain ⟨t, hserved, -, -, hbranches⟩ :=
    interruptBranches_observing run true hobs (State.canServe_of_level hlevel hl hv hcan)
  obtain ⟨u, htakes, hleft⟩ := hserved.above hserves hlevel hmask hv
  exact ⟨u, _, htakes, hbranches.trans (congrArg (Run.ok ()) hleft), rfl⟩

/-! ## The service in a pass -/

/-- A pass with END_OF_CYCLE, STOP, DOTRACE and TRACE clear is its interrupt branches and the break check, under both
readings of SC_EVAL (spec 41 R106 to R108, R115). -/
theorem exec_special_serviceAlone {s : State} (hobs : s.Observing) (hnested : s.nested = false)
    (heoc : s.sf.eoc = false) (hstop : s.sf.stop = false) (hdotrace : s.sf.dotrace = false) (htrace : s.sf.trace = false)
    (hcan : s.CanServe) :
    ∃ w, Serves false s w ∧ exec .executeSpecial s =
      .next (if s.cfg.scEval = .chain ∧ s.serves = true then w else w.deferred).passReturned := by
  cases heval : s.cfg.scEval with
  | chain =>
    obtain ⟨w, hserves, hexec⟩ := exec_special_chain_serves hobs hnested heval heoc hstop hdotrace (.inl htrace) hcan
    exact ⟨w, hserves, by simpa using hexec⟩
  | sequential =>
    have hsame {u : State} (hu : FiresTrace s.endOfCycled u) : u.traceArmed = s := by
      rw [State.endOfCycled_of_clear heoc] at hu
      rw [hu.eq_of_clear hdotrace, State.traceArmed_of_clear htrace]
    obtain ⟨u, w, hfires, hserves, hexec⟩ := exec_special_sequential hobs hnested heval hstop
      (fun h => absurd h (by simp [heoc])) (fun h => absurd h (by simp [hdotrace])) (fun u hu => (hsame hu).symm ▸ hcan)
    exact ⟨w, hsame hfires ▸ hserves, by simpa using hexec⟩

/-- Settles O50: the pass is its interrupt branches; what they leave is read off `Serves`, latched, with no level to serve, and
with one. -/
theorem passServesInterruptAboveMask : Obligations.PassServesInterruptAboveMask := by
  rintro s s1 s2 hobs hnested hsf rfl rfl
  have hdoint : s.sf.doint = true := by rw [hsf]
  have hpass (hcan : s.CanServe) := exec_special_serviceAlone hobs hnested (by rw [hsf]; rfl) (by rw [hsf]; rfl)
    (by rw [hsf]; rfl) (by rw [hsf]; rfl) hcan
  refine ⟨fun hlatch => ?latched, fun hlatch hlevel => ?dropped, fun l v hlatch hlevel hmask hl hv hcan => ?served⟩
  case latched =>
    have hserves : s.serves = false := by simp [State.serves, hlatch]
    obtain ⟨w, ⟨-, hlatched, -⟩, hexec⟩ := hpass fun h => absurd h (by simp [hserves])
    obtain rfl := hlatched hdoint hlatch
    rw [if_neg (by simp [hserves])] at hexec
    rw [State.deferred_of_doint (s := s.called .kernelStackOverflowed) hdoint] at hexec
    exact ⟨_, hexec, rfl, rfl⟩
  case dropped =>
    have hserves : s.serves = true := by simp [State.serves, hdoint, hlatch]
    have hbelow : ∀ l, s.levelRead = some l → l ≤ s.regs.imask.toNat := by
      intro l hread
      rcases hlevel with hnone | ⟨l', hsome, hle⟩
      · exact absurd (hread.symm.trans hnone) nofun
      · exact Option.some.inj (hsome.symm.trans hread) ▸ hle
    obtain ⟨w, ⟨-, -, hdropped, -⟩, hexec⟩ := hpass fun _ l hread hmask => absurd (hbelow l hread) (by omega)
    obtain rfl := hdropped hserves hbelow
    rw [State.deferred_unless_chain hserves rfl] at hexec
    exact ⟨_, hexec, rfl, rfl⟩
  case served =>
    have hserves : s.serves = true := by simp [State.serves, hdoint, hlatch]
    obtain ⟨w, hserved, hexec⟩ := hpass (State.canServe_of_level hlevel hl hv hcan)
    obtain ⟨u, htakes, hleft⟩ := hserved.above hserves hlevel hmask hv
    have hbrk : u.sf.brk = s.sf.brk := (congrArg SpecialFlags.brk htakes.sf_eq :)
    refine ⟨u, htakes, ?_⟩
    rw [hexec, hleft, State.passReturned_eq (s := u.interruptServed false l s.cfg.scEval) hbrk]
    rfl

/-! ## The stopped loop -/

theorem State.calledAll_withActs (s : State) (p : List Phase) (cs : List EnvCall) :
    (s.withActs p).calledAll cs = (s.calledAll cs).withActs p := by
  induction cs generalizing s with
  | nil => rfl
  | cons c cs ih => exact ih (s.called c)

/-- Neither the calls of an idle tick nor its cycles depend on the activations. -/
theorem State.withActs_idled (s : State) (p : List Phase) (before : List EnvCall) :
    (s.withActs p).idled before = (s.idled before).withActs p := by
  rw [State.idled, State.calledAll_withActs]
  rfl

theorem State.idled_acts (s : State) (before : List EnvCall) : (s.idled before).acts = s.acts := s.calledAll_acts _

/-- The activation of an idle tick put on before it and taken off again. -/
theorem State.idled_push_withActs (s : State) (p : Phase) (before : List EnvCall) :
    ((s.push p).idled before).withActs s.acts = s.idled before := by
  have hpush : (s.push p).idled before = (s.idled before).withActs (p :: s.acts) := s.withActs_idled _ before
  rw [hpush]
  exact congrArg (State.withActs (s.idled before)) (s.idled_acts before).symm

/-- The service of an idle tick does not depend on the activations. -/
theorem State.canServe_idled_push {s : State} {before : List EnvCall} (h : (s.idled before).CanServe) (p : Phase) :
    ((s.push p).idled before).CanServe :=
  State.canServe_withActs.1 (State.idled_push_withActs s p before ▸ h)

/-- How the stopped loop by itself goes on after a tick: it goes on, or returns whether a break ended it (spec 41 R109). -/
theorem afterTick_port (run : Runner) {u : State} {p : Phase} {outer : List Phase} (hacts : u.acts = p :: outer) :
    afterTick run .port (if u.breaks then .broke else if u.sf.stop then .again else .left) u.breakChecked =
      .ok () (if u.breaks = false ∧ u.sf.stop = true then { u.breakChecked with acts := .idle .port :: outer }
        else { u.breakChecked with acts := outer, ret := some (.bool u.breaks) }) := by
  have htail : u.breakChecked.acts.tail = outer := congrArg List.tail hacts
  cases u.breaks with
  | true => simp [afterTick, State.pop, State.returns, htail]
  | false => cases u.sf.stop <;> simp [afterTick, State.setTop, State.pop, State.returns, htail]

/-- The stopped loop by itself: the device woken, the first tick, and what follows from it (spec 41 R109, R110). -/
theorem exec_stoppedLoop {s : State} (hobs : s.Observing) (hcan : (s.idled s.wakeCalls).CanServe) :
    ∃ u, ChecksInterrupt (s.idled s.wakeCalls) u ∧
      exec .executeStoppedLoop s = .next
        (if u.breaks = false ∧ u.sf.stop = true then { u.breakChecked with acts := .idle .port :: s.acts }
        else { u.breakChecked with ret := some (.bool u.breaks) }) := by
  obtain ⟨u, hchecks, -, ⟨-, huacts⟩, hticks⟩ := enterStoppedLoop_observing s.runner (s := s.push (.idle .port)) hobs
    (State.canServe_idled_push hcan _)
  have hback := hchecks.withActs s.acts
  rw [State.idled_push_withActs] at hback
  refine ⟨_, hback, exec_of_completes ?_⟩
  change (enterStoppedLoop s.runner (s.push (.idle .port))).andThen _ = _
  rw [hticks, Run.andThen_ok]
  exact afterTick_port s.runner huacts

/-- Settles O51: the stopped loop by itself, with nothing flagged a check that changes nothing; a pass comes to it from its
end-of-cycle branch. -/
theorem stoppedLoopTicksUntilBreak : Obligations.StoppedLoopTicksUntilBreak := by
  refine ⟨?unflagged, fun s hobs _ hcan => exec_stoppedLoop hobs hcan, ?pass⟩
  case unflagged =>
    rintro s s1 hobs hstop hdoint hint rfl
    have hsf : (s.idled s.wakeCalls).sf = s.sf := s.calledAll_sf _
    obtain ⟨u, hchecks, hexec⟩ := exec_stoppedLoop hobs (State.canServe_of_clear (by rw [hsf, hdoint]))
    obtain rfl := hchecks.eq_of_clear (by rw [hsf, hdoint]) (by rw [hsf, hint])
    have hbreaks : (s.idled s.wakeCalls).breaks = (s.sf.brk || ((s.calledAll
        (s.wakeCalls ++ [.delay, .onCycle true, .onCycleSlowly true])).answer .sessionShouldBreak).yes) := by
      rw [State.breaks, hsf]
      rfl
    rw [hbreaks] at hexec
    refine ⟨fun hno => ?_, fun hyes => ?_⟩
    · rw [if_pos ⟨hno, by rw [hsf, hstop]⟩] at hexec
      refine ⟨_, hexec, ?_, rfl⟩
      apply State.ext_fields <;> simp [State.breakChecked, State.idled]
    · rw [if_neg (by simp [hyes]), hyes] at hexec
      refine ⟨_, hexec, ?_, rfl⟩
      apply State.ext_fields <;> simp [State.breakChecked, State.idled]
  case pass =>
    intro s hobs hnested hstop heoc hcan
    have hacts : (s.endOfCycled.push (.idle .special)).acts = .idle .special :: s.acts :=
      congrArg (List.cons _) s.endOfCycled_acts
    obtain ⟨u, hchecks, hends⟩ := passFromStop_ticks s.runner (inn := .special) (by decide) hacts hobs.endOfCycled
      (s.endOfCycled_stop.trans hstop) (State.canServe_idled_push hcan _) s
    have hback := hchecks.withActs s.endOfCycled.acts
    rw [State.idled_push_withActs] at hback
    refine ⟨_, hback, ?_⟩
    rw [exec_executeSpecial, specialPass_stopped (s := s.push (.idle .special)) s.runner .special hobs hnested hstop heoc,
      State.endOfCycled_push]
    exact hends.withActs _

end Sys2Proof.Machine
end

section
/-! PROOF. The operations on the special flags (spec 41 R112, R113). -/

namespace Sys2Proof.Machine

/-- A flag read after one is written (spec 41 R112). -/
theorem SpecialFlags.get_put (f : SpecialFlags) (k g : Flag) (on : Bool) :
    (f.put k on).get g = if g = k then on else f.get g := by
  cases k <;> cases g <;> rfl

/-- The flag written is the one read, every other flag and the rest of the state as before. -/
theorem State.putFlag_writes (s : State) (f : Flag) (on : Bool) :
    (s.putFlag f on).sf.get f = on ∧ (∀ g, g ≠ f → (s.putFlag f on).sf.get g = s.sf.get g) ∧
      { s.putFlag f on with sf := s.sf } = s :=
  ⟨(SpecialFlags.get_put s.sf f f on).trans (if_pos rfl),
    fun g hg => (SpecialFlags.get_put s.sf f g on).trans (if_neg hg), rfl⟩

/-- Settles O8: both operations are `putFlag`. -/
theorem setFlagAndClearFlagWriteOneFlag : Obligations.SetFlagAndClearFlagWriteOneFlag :=
  fun f s => ⟨⟨_, exec_of_completes rfl, s.putFlag_writes f true⟩, _, exec_of_completes rfl, s.putFlag_writes f false⟩

/-- Settles O9: the next state written out. -/
theorem enterStopSetsBothBits : Obligations.EnterStopSetsBothBits :=
  fun _ => exec_of_completes rfl

end Sys2Proof.Machine
end

section
/-! PROOF. What keeps the form of the state (spec 42 R120, 00 R5, 30 R64): memory canonical, the hook keys in range, the
platform's parameters as they were, and the unmodelled bits of the packed status word 0 where no injected handler writes
one of them (70 R216). -/

namespace Sys2Proof

open Machine

/-! ## The packed status word -/

/-- A packed word has no unmodelled bit set (spec 43 R135, 30 R64). -/
theorem RegFile.pack_and_srMask (r : RegFile) : r.pack &&& srMask = r.pack := by
  have hmask : srMask = 1#1 ++ 1#1 ++ 1#1 ++ 1#1 ++ (0 : BitVec 1) ++ 7#3 ++ (0 : BitVec 3) ++ 1#1 ++ 1#1 ++ 1#1 ++
      1#1 ++ 1#1 := rfl
  have hbit (b : BitVec 1) : b &&& 1#1 = b := BitVec.and_allOnes
  have himask : r.imask &&& 7#3 = r.imask := BitVec.and_allOnes
  rw [hmask, RegFile.pack]
  refine BitVec.and_append.trans ?_
  simp only [BitVec.and_append, hbit, himask, BitVec.and_self]

/-- The change to supervisor mode leaves the packed word alone (spec 60 R163). -/
@[simp] theorem RegFile.enterSupervisor_sr (r : RegFile) : r.enterSupervisor.sr = r.sr := by
  unfold RegFile.enterSupervisor
  split <;> rfl

/-- The swap of the stack pointers leaves the packed word alone (spec 43 R139). -/
@[simp] theorem RegFile.swapStacks_sr (r : RegFile) (oldS : Bool) : (r.swapStacks oldS).sr = r.sr := by
  unfold RegFile.swapStacks
  split_ifs <;> rfl

/-- A status field written leaves the packed word alone (spec 70 R216). -/
@[simp] theorem RegFile.putBit_sr (r : RegFile) (f : StatusBit) (on : Bool) : (r.putBit f on).sr = r.sr := by
  cases f <;> rfl

/-- Only a write of the packed word's own cell changes it. -/
theorem RegFile.putCell_sr_of_ne (r : RegFile) {id : RegId} (h : id ≠ .sr) (v : Word) :
    (r.putCell id v).sr = r.sr := by
  cases id with
  | sr => exact absurd rfl h
  | _ => rfl

end Sys2Proof

namespace Sys2Proof.Machine

/-! ## The form -/

/-- The state has the form of a platform with the parameters `cfg`; where `masked` holds, its packed status word has no
unmodelled bit set and no handler prepared writes one. -/
def State.Formed (cfg : Config) (masked : Prop) (s : State) : Prop :=
  s.FormInv ∧ s.cfg = cfg ∧ (masked → s.HandlersKeepSRMasked ∧ s.SRMasked)

/-- What the act writes into the packed word, if it writes it, has no unmodelled bit. -/
def HandlerAct.KeepsSRMasked (act : HandlerAct) : Prop :=
  ∀ v, act = .writeCell .sr v → v.extractLsb' 0 16 &&& srMask = v.extractLsb' 0 16

/-- Whatever instruction the runner carries out, `P` is kept. -/
def Runner.Preserves (run : Runner) (P : State → Prop) : Prop :=
  ∀ i s, P s → (run i s).Holds P

/-! ## Updates of the state -/

/-- A masked word has no unmodelled bit set. -/
theorem and_srMask_and_srMask (w : Half) : w &&& srMask &&& srMask = w &&& srMask := by
  rw [BitVec.and_assoc, BitVec.and_self]

section
variable {cfg : Config} {masked : Prop} {s : State}

/-- The form looks at memory, the hooks, the parameters, the answers prepared and the packed word alone. -/
theorem State.Formed.congr {t : State} (hs : s.Formed cfg masked) (hmem : t.mem = s.mem) (hhooks : t.hooks = s.hooks)
    (hcfg : t.cfg = s.cfg) (hanswers : t.answers = s.answers) (hsr : t.regs.sr = s.regs.sr) : t.Formed cfg masked := by
  unfold State.Formed State.FormInv State.HandlersKeepSRMasked State.SRMasked at hs ⊢
  rwa [hmem, hhooks, hcfg, hanswers, hsr]

theorem State.Formed.withCtx (hs : s.Formed cfg masked) (x : Ctx) : (s.withCtx x).Formed cfg masked := hs

theorem State.Formed.withBusy (hs : s.Formed cfg masked) (l : List HookKey) : (s.withBusy l).Formed cfg masked := hs

theorem State.Formed.addCycles (hs : s.Formed cfg masked) (n : Word) : (s.addCycles n).Formed cfg masked := hs

theorem State.Formed.putFlag (hs : s.Formed cfg masked) (f : Flag) (on : Bool) : (s.putFlag f on).Formed cfg masked :=
  hs

theorem State.Formed.putPC (hs : s.Formed cfg masked) (pc : Word) : (s.putPC pc).Formed cfg masked := hs

theorem State.Formed.putSP (hs : s.Formed cfg masked) (sp : Word) : (s.putSP sp).Formed cfg masked := hs

theorem State.Formed.recorded (hs : s.Formed cfg masked) (m : MemFault) : (s.recorded m).Formed cfg masked := hs

theorem State.Formed.push (hs : s.Formed cfg masked) (p : Phase) : (s.push p).Formed cfg masked := hs

/-- A formed state's memory is canonical. -/
theorem State.Formed.mem_wf (hs : s.Formed cfg masked) : s.mem.wf = true := hs.1.1

/-- A formed state's hook keys are in range. -/
theorem State.Formed.hooks_inRange (hs : s.Formed cfg masked) : s.hooks.all (fun e => e.1.inRange) = true := hs.1.2

/-- Another canonical memory. -/
theorem State.Formed.withMem (hs : s.Formed cfg masked) {m : Memory} (hm : m.wf = true) :
    State.Formed cfg masked { s with mem := m } := by
  obtain ⟨⟨-, hhooks⟩, hrest⟩ := hs
  exact ⟨⟨hm, hhooks⟩, hrest⟩

theorem State.Formed.setByte (hs : s.Formed cfg masked) (a : Word) (b : Byte) : (s.setByte a b).Formed cfg masked :=
  hs.withMem (State.setByte_wf hs.mem_wf a b)

theorem State.Formed.setHalf (hs : s.Formed cfg masked) (a : Word) (v : Half) : (s.setHalf a v).Formed cfg masked :=
  hs.withMem (State.setHalf_wf hs.mem_wf a v)

theorem State.Formed.setWord (hs : s.Formed cfg masked) (a v : Word) : (s.setWord a v).Formed cfg masked :=
  hs.withMem (State.setWord_wf hs.mem_wf a v)

/-- Another list of registrations, its keys in range. -/
theorem State.Formed.withHooks (hs : s.Formed cfg masked) {l : List (HookKey × Callback)}
    (hl : l.all (fun e => e.1.inRange) = true) : State.Formed cfg masked { s with hooks := l } := by
  obtain ⟨⟨hmem, -⟩, hrest⟩ := hs
  exact ⟨⟨hmem, hl⟩, hrest⟩

/-- Another register file, its packed word without an unmodelled bit where that of `s` is. -/
theorem State.Formed.withRegs (hs : s.Formed cfg masked) {r : RegFile}
    (hr : masked → s.SRMasked → r.sr &&& srMask = r.sr) : State.Formed cfg masked { s with regs := r } := by
  obtain ⟨hform, hcfg, hmasked⟩ := hs
  exact ⟨hform, hcfg, fun hm => ⟨(hmasked hm).1, hr hm (hmasked hm).2⟩⟩

theorem State.Formed.packSR (hs : s.Formed cfg masked) : s.packSR.Formed cfg masked :=
  hs.withRegs fun _ _ => s.regs.pack_and_srMask

theorem State.Formed.enterSupervisor (hs : s.Formed cfg masked) :
    State.Formed cfg masked { s with regs := s.regs.enterSupervisor } :=
  hs.congr rfl rfl rfl rfl s.regs.enterSupervisor_sr

theorem State.Formed.setSR (hs : s.Formed cfg masked) (v : Half) : (s.setSR v).Formed cfg masked := by
  have hregs : State.Formed cfg masked { s with regs := (s.setSR v).regs } :=
    hs.withRegs fun _ _ => by rw [State.setSR_regs, RegFile.swapStacks_sr, and_srMask_and_srMask]
  exact hregs

/-- A cell written, which for the packed word is the right of handlers alone (spec 70 R216). -/
theorem State.Formed.putCell (hs : s.Formed cfg masked) {id : RegId} {v : Word}
    (hv : masked → id = .sr → v.extractLsb' 0 16 &&& srMask = v.extractLsb' 0 16) :
    State.Formed cfg masked { s with regs := s.regs.putCell id v } := by
  by_cases hid : id = .sr
  · subst hid
    exact hs.withRegs fun hm _ => hv hm rfl
  · exact hs.congr rfl rfl rfl rfl (s.regs.putCell_sr_of_ne hid v)

theorem State.Formed.called (hs : s.Formed cfg masked) (c : EnvCall) : (s.called c).Formed cfg masked := by
  obtain ⟨hform, hcfg, hmasked⟩ := hs
  exact ⟨hform, hcfg, fun hm => ⟨fun e he => (hmasked hm).1 e (dropAnswer_subset c _ e he), (hmasked hm).2⟩⟩

/-- The handler that answers a call writes no unmodelled bit into the packed word. -/
theorem State.Formed.answer_body (hs : s.Formed cfg masked) (c : EnvCall) (hm : masked) :
    ∀ act ∈ (s.answer c).body, act.KeepsSRMasked := by
  rintro act hact v rfl
  obtain ⟨-, -, hmasked⟩ := hs
  obtain ⟨hhandlers, -⟩ := hmasked hm
  rcases firstAnswer_mem c s.answers with hquiet | hmem
  · rw [State.answer, hquiet] at hact
    exact absurd hact List.not_mem_nil
  · exact hhandlers _ hmem v hact

end

/-- A key that a kind and a number give is in range (spec 42 R120, R121). -/
theorem HookKey.inRange_of {kind : HookKind} {key : Nat} {k : HookKey} (h : HookKey.of kind key = some k) :
    k.inRange = true := by
  cases kind with
  | exception =>
    rw [HookKey.of] at h
    split at h
    · cases h
      exact decide_eq_true ‹_›
    · cases h
  | _ =>
    cases h
    rfl

/-! ## Memory accesses -/

section
variable {P : State → Prop} {s : State}

theorem access_holds (a : Word) (n : AccessSize) (d : Dir) (hs : P s) : (access a n d s).Holds P := by
  unfold access
  split <;> exact hs

theorem memReadHalf_holds (a : Word) (hs : P s) : (memReadHalf a s).Holds P :=
  (access_holds a _ _ hs).andThen fun _ _ ht => ht

theorem memReadWord_holds (a : Word) (hs : P s) : (memReadWord a s).Holds P :=
  (access_holds a _ _ hs).andThen fun _ _ ht => ht

theorem memReadFullWord_holds (a : Word) (hs : P s) : (memReadFullWord a s).Holds P := by
  unfold memReadFullWord
  split <;> exact hs

theorem controlAddress_holds (eaMode eaReg : BitVec 3) (hs : P s) : (controlAddress eaMode eaReg s).Holds P := by
  have hhalf (f : Half → State → Word × Word) (a : Word) :
      ((memReadHalf a s).andThen fun h t => .ok (f h t) t).Holds P :=
    (memReadHalf_holds a hs).andThen fun _ _ ht => ht
  have hword (f : Word → Word × Word) (a : Word) : ((memReadWord a s).andThen fun w t => .ok (f w) t).Holds P :=
    (memReadWord_holds a hs).andThen fun _ _ ht => ht
  unfold controlAddress
  split_ifs
  · exact hs
  · exact hhalf (fun d16 _ => _) _
  · exact hhalf (fun ext t => _) _
  · exact hhalf (fun a16 _ => _) _
  · exact hword (fun a32 => _) _
  · exact hhalf (fun d16 _ => _) _
  · exact hhalf (fun ext t => _) _

end

theorem Run.Holds.thenCost {α : Type} {P : State → Prop} {r : Run α} (hr : r.Holds P) (c : Word) :
    (r.thenCost c).Holds P :=
  hr.andThen fun _ _ ht => ht

section
variable {cfg : Config} {masked : Prop} {s : State}

theorem memWriteHalf_formed (a : Word) (v : Half) (hs : s.Formed cfg masked) :
    (memWriteHalf a v s).Holds (State.Formed cfg masked) :=
  (access_holds a _ _ hs).andThen fun _ _ ht => ht.setHalf a v

theorem memWriteWord_formed (a v : Word) (hs : s.Formed cfg masked) :
    (memWriteWord a v s).Holds (State.Formed cfg masked) :=
  (access_holds a _ _ hs).andThen fun _ _ ht => ht.setWord a v

theorem memStore_formed (a : Word) (n : AccessSize) (v : Word) (hs : s.Formed cfg masked) :
    (memStore a n v s).Holds (State.Formed cfg masked) := by
  cases n with
  | one => exact (access_holds a _ _ hs).andThen fun _ _ ht => ht.setByte a _
  | two => exact memWriteHalf_formed a _ hs
  | four => exact memWriteWord_formed a v hs

theorem pushFrame_formed (vector : Nat) (hs : s.Formed cfg masked) :
    (pushFrame vector s).Holds (State.Formed cfg masked) := by
  have hlong (a : Word) {t : State} (ht : t.Formed cfg masked) : (writeLongFrame a t).Holds (State.Formed cfg masked) :=
    (memWriteHalf_formed _ _ ht).andThen fun _ _ ht => (memWriteWord_formed _ _ ht).andThen fun _ _ ht =>
      (memWriteHalf_formed _ _ ht).andThen fun _ _ ht => (memWriteHalf_formed _ _ ht).andThen fun _ _ ht =>
        memWriteWord_formed _ _ ht
  have hshort (a : Word) {t : State} (ht : t.Formed cfg masked) :
      (writeShortFrame a t).Holds (State.Formed cfg masked) :=
    (memWriteHalf_formed _ _ ht).andThen fun _ _ ht => memWriteWord_formed _ _ ht
  unfold pushFrame
  split
  · exact hlong _ (hs.putSP _)
  · exact hshort _ (hs.putSP _)

end

/-! ## Calls of the environment and hooks -/

section
variable {run : Runner} {cfg : Config} {masked : Prop} {s : State} (hrun : run.Preserves (State.Formed cfg masked))
include hrun

theorem makeCall_formed (c : Call) (hs : s.Formed cfg masked) : (makeCall run c s).Holds (State.Formed cfg masked) := by
  unfold makeCall
  split
  · trivial
  · exact hrun c.val s hs

theorem performAct_formed (act : Act) (hs : s.Formed cfg masked) :
    (performAct run act s).Holds (State.Formed cfg masked) := by
  cases act with
  | call c => exact makeCall_formed hrun c hs
  | poke addr v => exact hs.setByte addr v
  | setNested on =>
    rw [performAct]
    split
    · exact hs
    · exact hs
    · exact hs
    · trivial
    · trivial

theorem performActs_formed (acts : List Act) (hs : s.Formed cfg masked) :
    (performActs run acts s).Holds (State.Formed cfg masked) := by
  induction acts generalizing s with
  | nil => exact hs
  | cons act rest ih => exact (performAct_formed hrun act hs).andThen fun _ _ ht => ih ht

theorem performHandlerAct_formed {act : HandlerAct} (hact : masked → act.KeepsSRMasked) (hs : s.Formed cfg masked) :
    (performHandlerAct run act s).Holds (State.Formed cfg masked) := by
  cases act with
  | call c => exact makeCall_formed hrun c hs
  | writeCell id v => exact hs.putCell fun hm hid => hact hm v (hid ▸ rfl)
  | writeBit f on => exact hs.congr rfl rfl rfl rfl (s.regs.putBit_sr f on)
  | load addr size => exact access_holds addr size .read hs
  | store addr size v => exact memStore_formed addr size v hs
  | poke addr v => exact hs.setByte addr v
  | writeMask | writeStopped => exact hs

theorem performHandlerActs_formed {acts : List HandlerAct} (hacts : masked → ∀ act ∈ acts, act.KeepsSRMasked)
    (hs : s.Formed cfg masked) :
    (performHandlerActs run acts s).Holds (State.Formed cfg masked) := by
  induction acts generalizing s with
  | nil => exact hs
  | cons act rest ih =>
    have hhead := performHandlerAct_formed hrun (fun hm => hacts hm act List.mem_cons_self) hs
    exact hhead.andThen fun _ _ ht => ih (fun hm a ha => hacts hm a (List.mem_cons_of_mem act ha)) ht

theorem envCall_formed (c : EnvCall) (hs : s.Formed cfg masked) :
    (envCall run c s).Holds (State.Formed cfg masked) :=
  (performActs_formed hrun _ ((hs.called c).withCtx (s.calleeCtx c))).noAbort.andThen fun _ _ ht => ht.withCtx s.ctx

theorem envAsk_formed (c : EnvCall) (hs : s.Formed cfg masked) : (envAsk run c s).Holds (State.Formed cfg masked) :=
  (envCall_formed hrun c hs).andThen fun _ _ ht => ht

theorem envTell_formed (c : EnvCall) (hs : s.Formed cfg masked) : (envTell run c s).Holds (State.Formed cfg masked) :=
  (envCall_formed hrun c hs).andThen fun _ _ ht => ht

theorem callHooks_formed (key : HookKey) (arg : HookArg) (l : List Callback) (hs : s.Formed cfg masked) :
    (callHooks run key arg l s).Holds (State.Formed cfg masked) := by
  induction l generalizing s with
  | nil => exact hs
  | cons h l ih => exact (envAsk_formed hrun _ hs).andThen fun _ _ ht => (ih ht).andThen fun _ _ hu => hu

theorem invokeHooks_formed (key : HookKey) (arg : HookArg) (hs : s.Formed cfg masked) :
    (invokeHooks run key arg s).Holds (State.Formed cfg masked) :=
  (callHooks_formed hrun key arg _ (hs.withBusy (key :: s.busy))).andThen fun _ _ ht => ht.withBusy s.busy

theorem eventNewSP_formed (ev : EventRecord) (hs : s.Formed cfg masked) :
    (eventNewSP run ev s).Holds (State.Formed cfg masked) :=
  (invokeHooks_formed hrun _ _ hs).andThen fun _ _ ht => ht

theorem eventLINK_formed (ev : EventRecord) (hs : s.Formed cfg masked) :
    (eventLINK run ev s).Holds (State.Formed cfg masked) :=
  (invokeHooks_formed hrun _ _ hs).andThen fun _ _ ht => ht

theorem eventPort_formed (key : HookKey) (ev : EventRecord) (hs : s.Formed cfg masked) :
    (eventPort run key ev s).Holds (State.Formed cfg masked) :=
  (invokeHooks_formed hrun _ _ hs).andThen fun _ _ ht => ht

/-! ## Installing a PC, exceptions and interrupts -/

theorem checkNewPC_formed (addr : Word) (hs : s.Formed cfg masked) :
    (checkNewPC run addr s).Holds (State.Formed cfg masked) :=
  (envCall_formed hrun _ hs).andThen fun a _ ht => by
    cases a.fault with
    | some m => exact ht
    | none => exact ht

theorem setPC_formed (addr : Word) (hs : s.Formed cfg masked) : (setPC run addr s).Holds (State.Formed cfg masked) :=
  (invokeHooks_formed hrun _ _ hs).andThen fun _ _ ht => (checkNewPC_formed hrun addr ht).andThen fun _ _ hu => hu

theorem enterException_formed (vector : Nat) (hs : s.Formed cfg masked) :
    (enterException run vector s).Holds (State.Formed cfg masked) := by
  refine Run.Holds.noAbort ?_
  exact (pushFrame_formed vector hs.enterSupervisor).andThen fun _ _ ht =>
    (memReadFullWord_holds _ ht).andThen fun h _ ht => (setPC_formed hrun h ht).andThen fun _ _ hu => hu

theorem processException_formed (vector : Nat) (hs : s.Formed cfg masked) :
    (processException run vector s).Holds (State.Formed cfg masked) := by
  unfold processException
  split
  · trivial
  · refine (invokeHooks_formed hrun _ _ hs.packSR).andThen fun handled t ht => ?_
    split
    · exact ht
    · exact enterException_formed hrun vector ht

theorem memoryFault_formed (m : MemFault) (hs : s.Formed cfg masked) :
    (memoryFault run m s).Holds (State.Formed cfg masked) :=
  processException_formed hrun _ (hs.recorded m)

theorem processInterrupt_formed (level : Nat) (hs : s.Formed cfg masked) :
    (processInterrupt run level s).Holds (State.Formed cfg masked) := by
  unfold processInterrupt
  split
  · trivial
  · refine (envCall_formed hrun _ hs).andThen fun a t ht => ?_
    split
    · trivial
    · exact (processException_formed hrun _ ht).andThen fun _ _ hu => hu

theorem returnFromException_formed (hs : s.Formed cfg masked) :
    (returnFromException run s).Holds (State.Formed cfg masked) :=
  (memReadHalf_holds _ hs).andThen fun sr _ ht => (memReadWord_holds _ ht).andThen fun pc _ ht =>
    setPC_formed hrun pc ((ht.putSP _).setSR sr)

/-! ## Opcode words -/

/-- Step C keeps the form if the handler does, completed or cut short (spec 40 R84, 60 R171). -/
theorem runHandler_formed {body : State → Run Word}
    (hbody : ∀ t, t.Formed cfg masked → (body t).Holds (State.Formed cfg masked)) (hs : s.Formed cfg masked) :
    (runHandler run body s).Holds (State.Formed cfg masked) := by
  have hdone : ((body (s.withCtx .handler)).andThen fun c t => .ok () ((t.withCtx s.ctx).addCycles c)).Holds
      (State.Formed cfg masked) :=
    (hbody _ (hs.withCtx .handler)).andThen fun c _ ht => (ht.withCtx s.ctx).addCycles c
  exact hdone.onAbort fun m _ ht => memoryFault_formed hrun m (ht.withCtx s.ctx)

theorem illegalHandler_formed (op : Half) (hs : s.Formed cfg masked) :
    (illegalHandler run op s).Holds (State.Formed cfg masked) :=
  runHandler_formed hrun (fun _ ht => (processException_formed hrun _ ht).thenCost _) hs

theorem privileged_formed {body : State → Run Word}
    (hbody : ∀ t, t.Formed cfg masked → (body t).Holds (State.Formed cfg masked)) (hs : s.Formed cfg masked) :
    (privileged run body s).Holds (State.Formed cfg masked) := by
  unfold privileged
  split
  · exact hbody s hs
  · exact (processException_formed hrun _ hs).thenCost _

/-- An injected handler keeps the form: what it writes into the packed word is known from the answers (log 22). -/
theorem injectedHandler_formed (op : Half) (hs : s.Formed cfg masked) :
    (injectedHandler run op s).Holds (State.Formed cfg masked) := by
  have hbody (t : State) (ht : t.Formed cfg masked) :
      (injectedBody run op s t).Holds (State.Formed cfg masked) := by
    refine (performHandlerActs_formed hrun (hs.answer_body (.handler op)) ht).andThen fun _ u hu => ?_
    split <;> exact hu
  exact runHandler_formed hrun hbody (hs.called (.handler op))

theorem opNop_formed (hs : s.Formed cfg masked) : (opNop run s).Holds (State.Formed cfg masked) := by
  refine runHandler_formed hrun (fun t ht => ?_) hs
  exact ht.putPC (t.regs.pc + 2)

theorem opTrap_formed (n : BitVec 4) (hs : s.Formed cfg masked) : (opTrap run n s).Holds (State.Formed cfg masked) := by
  refine runHandler_formed hrun (fun _ ht => ?_) hs
  exact (processException_formed hrun _ (ht.putPC _)).thenCost _

theorem opTrapv_formed (hs : s.Formed cfg masked) : (opTrapv run s).Holds (State.Formed cfg masked) := by
  refine runHandler_formed hrun (fun _ ht => ?_) hs
  dsimp only
  split
  · exact (processException_formed hrun _ (ht.putPC _)).thenCost _
  · exact ht.putPC _

theorem opStop_formed (hs : s.Formed cfg masked) : (opStop run s).Holds (State.Formed cfg masked) := by
  refine runHandler_formed hrun (fun _ ht => privileged_formed hrun (fun _ hu => ?_) ht) hs
  exact (memReadHalf_holds _ hu).andThen fun imm _ ht => (ht.putPC _).setSR imm

theorem opRte_formed (hs : s.Formed cfg masked) : (opRte run s).Holds (State.Formed cfg masked) := by
  refine runHandler_formed hrun (fun _ ht => privileged_formed hrun (fun _ hu => ?_) ht) hs
  exact (invokeHooks_formed hrun _ _ hu).andThen fun _ _ ht => (returnFromException_formed hrun ht).thenCost _

theorem opRts_formed (hs : s.Formed cfg masked) : (opRts run s).Holds (State.Formed cfg masked) := by
  refine runHandler_formed hrun (fun _ ht => ?_) hs
  exact (invokeHooks_formed hrun _ _ ht).andThen fun _ _ ht => (memReadWord_holds _ ht).andThen fun pc _ ht =>
    (setPC_formed hrun pc (ht.putSP _)).thenCost _

theorem opLink_formed (an : BitVec 3) (hs : s.Formed cfg masked) :
    (opLink run an s).Holds (State.Formed cfg masked) := by
  refine runHandler_formed hrun (fun _ ht => ?_) hs
  exact (eventLINK_formed hrun _ ht).andThen fun _ _ ht => (memReadHalf_holds _ ht).andThen fun _ _ ht =>
    (memWriteWord_formed _ _ (ht.putSP _)).andThen fun _ _ hu => hu

theorem opJsr_formed (eaMode eaReg : BitVec 3) (hs : s.Formed cfg masked) :
    (opJsr run eaMode eaReg s).Holds (State.Formed cfg masked) := by
  unfold opJsr
  split
  · refine runHandler_formed hrun (fun _ ht => ?_) hs
    exact (invokeHooks_formed hrun _ _ ht).andThen fun _ _ ht => (controlAddress_holds _ _ ht).andThen fun _ _ ht =>
      (memWriteWord_formed _ _ (ht.putSP _)).andThen fun _ _ ht => (setPC_formed hrun _ ht).thenCost _
  · exact illegalHandler_formed hrun _ hs

theorem opMoveWAbsLD0_formed (hs : s.Formed cfg masked) : (opMoveWAbsLD0 run s).Holds (State.Formed cfg masked) := by
  refine runHandler_formed hrun (fun _ ht => (memReadWord_holds _ ht).andThen fun a _ ht => ?_) hs
  exact (memReadHalf_holds a (ht.putPC _)).andThen fun _ _ hu => hu

/-! ## The other operations -/

theorem opSetRegister_formed (id : Nat) (value : Word) (hs : s.Formed cfg masked) :
    (opSetRegister run id value s).Holds (State.Formed cfg masked) := by
  unfold opSetRegister
  split
  next => trivial
  next => exact (setPC_formed hrun value hs).noAbort
  next => exact hs.setSR _
  next n _ =>
    have hput : State.Formed cfg masked { s with regs := s.regs.putCell (.a n) value } := hs
    dsimp only
    split
    · exact eventNewSP_formed hrun _ hput
    · exact hput
  next hne _ _ => exact hs.putCell fun _ hid => absurd hid hne

theorem contextSwitch_formed (pc : Word) (hs : s.Formed cfg masked) :
    (contextSwitch run pc s).Holds (State.Formed cfg masked) :=
  (setPC_formed hrun pc hs).noAbort.andThen fun _ _ ht => eventNewSP_formed hrun _ ht

theorem opSetRegisters_formed (regs : RegFile) (hs : s.Formed cfg masked) :
    (opSetRegisters run regs s).Holds (State.Formed cfg masked) :=
  contextSwitch_formed hrun regs.pc (hs.withRegs fun _ _ => and_srMask_and_srMask regs.sr)

theorem opLoad_formed (file : FileId) (hs : s.Formed cfg masked) :
    (opLoad run file s).Holds (State.Formed cfg masked) := by
  unfold opLoad
  split
  · trivial
  · split
    · trivial
    · exact contextSwitch_formed hrun _ (hs.withRegs fun _ _ => RegFile.pack_and_srMask _)

omit hrun in
theorem opInstallHook_formed (kind : HookKind) (key : Nat) (cb : Callback) (hs : s.Formed cfg masked) :
    (opInstallHook kind key cb s).Holds (State.Formed cfg masked) := by
  unfold opInstallHook
  split
  next => trivial
  next k hk =>
    split
    · trivial
    · refine hs.withHooks ?_
      rw [List.all_append, hs.hooks_inRange, List.all_cons, HookKey.inRange_of hk]
      rfl

omit hrun in
theorem opRemoveHook_formed (kind : HookKind) (key : Nat) (cb : Callback) (hs : s.Formed cfg masked) :
    (opRemoveHook kind key cb s).Holds (State.Formed cfg masked) := by
  unfold opRemoveHook
  split
  · trivial
  · split
    · trivial
    · have hkeys := List.all_eq_true.1 hs.hooks_inRange
      exact hs.withHooks (List.all_eq_true.2 fun e he => hkeys e (List.mem_of_mem_erase he))

omit hrun in
theorem opGetRegister_formed (id : Nat) (hs : s.Formed cfg masked) :
    (opGetRegister id s).Holds (State.Formed cfg masked) := by
  unfold opGetRegister
  split
  · trivial
  · exact hs.packSR
  · exact hs

theorem hardwareReset_formed (hs : s.Formed cfg masked) : (hardwareReset run s).Holds (State.Formed cfg masked) := by
  refine (memReadFullWord_holds _ hs).andThen fun sp0 _ ht => (memReadFullWord_holds _ ht).andThen fun pc0 t ht => ?_
  have hfile : State.Formed cfg masked { t with regs := hardwareResetFile t.regs sp0 } :=
    ht.withRegs fun _ _ => (by decide : (0x2700 : Half) &&& srMask = 0x2700)
  exact setPC_formed hrun pc0 (hfile.congr rfl rfl rfl rfl rfl)

theorem opReset_formed (hardware : Bool) (hs : s.Formed cfg masked) :
    (opReset run hardware s).Holds (State.Formed cfg masked) := by
  unfold opReset
  split
  · refine Run.Holds.noAbort ?_
    split
    · exact hardwareReset_formed hrun hs
    · exact checkNewPC_formed hrun _ (hs.congr rfl rfl rfl rfl rfl)
  · trivial

end
end Sys2Proof.Machine
end

section
/-! PROOF. The form of the state over passes, steps of the loop, and the runs that callbacks start (spec 42 R120, 00
R5). -/

namespace Sys2Proof.Machine

section
variable {run : Runner} {cfg : Config} {masked : Prop} {s : State}

/-! ## The branches of a pass -/

theorem State.Formed.traceArmBranch (hs : s.Formed cfg masked) : (traceArmBranch s).Formed cfg masked := by
  unfold Machine.traceArmBranch
  split <;> exact hs

theorem State.Formed.deferBranch (hs : s.Formed cfg masked) : (deferBranch s).Formed cfg masked := by
  unfold Machine.deferBranch
  split <;> exact hs

theorem State.Formed.endPass (hs : s.Formed cfg masked) (inn : IdleIn) (stopLoop : Bool) :
    (endPass inn stopLoop s).Formed cfg masked := by
  cases inn <;> cases stopLoop <;> exact hs

variable (hrun : run.Preserves (State.Formed cfg masked))
include hrun

theorem breakCheck_formed (hs : s.Formed cfg masked) : (breakCheck run s).Holds (State.Formed cfg masked) :=
  (envAsk_formed hrun _ hs).andThen fun _ _ ht => ht

theorem endOfCycleBranch_formed (hs : s.Formed cfg masked) :
    (endOfCycleBranch run s).Holds (State.Formed cfg masked) := by
  unfold endOfCycleBranch
  split
  · exact envAsk_formed hrun _ (hs.putFlag .eoc false)
  · exact hs

theorem traceFireBranch_formed (hs : s.Formed cfg masked) :
    (traceFireBranch run s).Holds (State.Formed cfg masked) := by
  unfold traceFireBranch
  split
  · exact processException_formed hrun _ hs
  · exact hs

theorem serviceDue_formed (hs : s.Formed cfg masked) : (serviceDue run s).Holds (State.Formed cfg masked) := by
  unfold serviceDue
  split
  · exact (envAsk_formed hrun _ hs).andThen fun _ _ ht => ht
  · exact hs

theorem serviceInterrupt_formed (idle : Bool) (hs : s.Formed cfg masked) :
    (serviceInterrupt run idle s).Holds (State.Formed cfg masked) := by
  refine (envCall_formed hrun _ hs).andThen fun a t ht => ?_
  have hclear := ht.putFlag .doint false
  dsimp only
  cases a.level with
  | none => exact hclear
  | some level =>
    dsimp only
    split_ifs
    · trivial
    · exact (processInterrupt_formed hrun level hclear).andThen fun _ _ hu => hu
    · exact hclear

theorem interruptBranches_formed (idle : Bool) (hs : s.Formed cfg masked) :
    (interruptBranches run idle s).Holds (State.Formed cfg masked) := by
  refine (serviceDue_formed hrun hs).andThen fun due t ht => ?_
  split
  · refine (serviceInterrupt_formed hrun idle ht).andThen fun _ u hu => ?_
    split
    · exact hu.deferBranch
    · exact hu
  · exact ht.deferBranch

theorem wakeSynthesis_formed (hs : s.Formed cfg masked) : (wakeSynthesis run s).Holds (State.Formed cfg masked) := by
  refine (envAsk_formed hrun _ hs).andThen fun asleep _ ht => ?_
  split
  · refine (envAsk_formed hrun _ ht).andThen fun pending _ ht => ?_
    split
    · exact ht
    · exact (envAsk_formed hrun _ ht).andThen fun _ _ ht => (envAsk_formed hrun _ ht).andThen fun _ _ ht =>
        (envAsk_formed hrun _ ht).andThen fun _ _ ht => (envTell_formed hrun _ ht).andThen fun _ _ ht =>
        (envTell_formed hrun _ ht).andThen fun _ _ ht => (envTell_formed hrun _ ht).andThen fun _ _ ht =>
        (envTell_formed hrun _ ht).andThen fun _ _ ht => (envTell_formed hrun _ ht).andThen fun _ _ ht =>
        (envTell_formed hrun _ ht).andThen fun _ _ ht => (envTell_formed hrun _ ht).andThen fun _ _ ht =>
        envTell_formed hrun _ ht
  · exact ht

/-! ## Idle ticks and passes -/

theorem idleTick_formed (hs : s.Formed cfg masked) : (idleTick run s).Holds (State.Formed cfg masked) :=
  (envTell_formed hrun _ hs).andThen fun _ _ ht => (envTell_formed hrun _ ht).andThen fun _ _ ht =>
    (envTell_formed hrun _ ht).andThen fun _ _ ht =>
      (interruptBranches_formed hrun true (ht.addCycles _)).andThen fun _ _ ht =>
        (breakCheck_formed hrun ht).andThen fun _ _ hu => hu

theorem enterStoppedLoop_formed (hs : s.Formed cfg masked) :
    (enterStoppedLoop run s).Holds (State.Formed cfg masked) :=
  (wakeSynthesis_formed hrun hs).andThen fun _ _ ht => idleTick_formed hrun ht

theorem finishPass_formed (inn : IdleIn) (hs : s.Formed cfg masked) :
    (finishPass run inn s).Holds (State.Formed cfg masked) :=
  (breakCheck_formed hrun hs).andThen fun b _ ht => ht.endPass inn b

theorem afterStopBranches_formed (hs : s.Formed cfg masked) :
    (afterStopBranches run s).Holds (State.Formed cfg masked) := by
  unfold afterStopBranches
  split
  · exact interruptBranches_formed hrun false hs.traceArmBranch
  · exact hs

/-- The part of a pass after its stopped loop. -/
theorem restOfPass_formed (inn : IdleIn) (hs : s.Formed cfg masked) :
    ((afterStopBranches run s).andThen fun _ t => finishPass run inn t).Holds (State.Formed cfg masked) :=
  (afterStopBranches_formed hrun hs).andThen fun _ _ ht => finishPass_formed hrun inn ht

theorem afterTick_formed (inn : IdleIn) (e : TickEnd) (hs : s.Formed cfg masked) :
    (afterTick run inn e s).Holds (State.Formed cfg masked) := by
  have hbroke (inn : IdleIn) := (hs.putFlag .brk false).endPass inn true
  cases inn with
  | port => cases e <;> exact hs
  | loop =>
    cases e with
    | again => exact hs
    | left => exact restOfPass_formed hrun .loop hs
    | broke => exact hbroke .loop
  | special =>
    cases e with
    | again => exact hs
    | left => exact restOfPass_formed hrun .special hs
    | broke => exact hbroke .special

theorem passFromStop_formed (inn : IdleIn) (hs : s.Formed cfg masked) :
    (passFromStop run inn s).Holds (State.Formed cfg masked) := by
  unfold passFromStop
  split
  · exact (enterStoppedLoop_formed hrun hs).andThen fun e _ ht => afterTick_formed hrun inn e ht
  · exact restOfPass_formed hrun inn hs

theorem sequentialPass_formed (inn : IdleIn) (hs : s.Formed cfg masked) :
    (sequentialPass run inn s).Holds (State.Formed cfg masked) := by
  refine (endOfCycleBranch_formed hrun hs).andThen fun handled t ht => ?_
  split
  · exact ht.endPass inn true
  · exact (traceFireBranch_formed hrun ht).andThen fun _ _ hu => passFromStop_formed hrun inn hu

theorem chainPass_formed (inn : IdleIn) (hs : s.Formed cfg masked) :
    (chainPass run inn s).Holds (State.Formed cfg masked) := by
  unfold chainPass
  split_ifs
  · refine (endOfCycleBranch_formed hrun hs).andThen fun handled t ht => ?_
    split
    · exact ht.endPass inn true
    · exact finishPass_formed hrun inn ht
  · exact (traceFireBranch_formed hrun hs).andThen fun _ _ ht => finishPass_formed hrun inn ht
  · exact passFromStop_formed hrun inn hs
  · exact finishPass_formed hrun inn hs.traceArmBranch
  · exact (interruptBranches_formed hrun false hs).andThen fun _ _ ht => finishPass_formed hrun inn ht

theorem specialPass_formed (inn : IdleIn) (hs : s.Formed cfg masked) :
    (specialPass run inn s).Holds (State.Formed cfg masked) := by
  unfold specialPass
  split
  · exact finishPass_formed hrun inn hs
  · split
    · exact sequentialPass_formed hrun inn hs
    · exact chainPass_formed hrun inn hs

/-! ## A step of the loop -/

theorem stepA_formed (hs : s.Formed cfg masked) : (stepA run s).Holds (State.Formed cfg masked) := by
  unfold stepA
  split
  · exact hs
  · refine (envAsk_formed hrun _ hs).andThen fun hit t ht => ?_
    split
    · exact envTell_formed hrun _ ht
    · exact ht

theorem stepBC_formed {disp : Runner} (hdisp : disp.Preserves (State.Formed cfg masked)) (hs : s.Formed cfg masked) :
    (stepBC disp run s).Holds (State.Formed cfg masked) := by
  have hfetch := memReadHalf_holds s.regs.pc hs
  unfold stepBC
  cases hread : memReadHalf s.regs.pc s with
  | ok op t =>
    rw [hread] at hfetch
    exact hdisp _ t hfetch
  | abort m t =>
    rw [hread] at hfetch
    exact memoryFault_formed hrun m hfetch
  | unfinished => trivial
  | fault e => trivial
  | refused e => trivial

theorem stepD_formed (hs : s.Formed cfg masked) : (stepD run s).Holds (State.Formed cfg masked) := by
  refine (envTell_formed hrun _ hs).andThen fun _ t ht => ?_
  have hcount : State.Formed cfg masked { t with iter := t.iter + 1 } := ht
  dsimp only
  split_ifs
  · exact ht
  · exact envTell_formed hrun _ hcount
  · exact hcount

theorem stepE_formed (hs : s.Formed cfg masked) : (stepE run s).Holds (State.Formed cfg masked) := by
  unfold stepE
  split
  · exact specialPass_formed hrun .loop hs
  · exact hs

theorem loopStep_formed {disp : Runner} (hdisp : disp.Preserves (State.Formed cfg masked)) (hs : s.Formed cfg masked) :
    (loopStep disp run s).Holds (State.Formed cfg masked) := by
  unfold loopStep
  split
  next => exact hs
  next =>
    exact (stepA_formed hrun hs).andThen fun _ _ ht => (stepBC_formed hrun hdisp ht).andThen fun _ _ ht =>
      (stepD_formed hrun ht).andThen fun _ _ ht => stepE_formed hrun ht
  next => exact stepE_formed hrun hs
  next => exact (idleTick_formed hrun hs).andThen fun e _ ht => afterTick_formed hrun _ e ht

/-! ## Instructions and the runs they start -/

/-- A row of the default table keeps the form. -/
theorem operate_row_formed {i : Instr} (hi : i.isOpcodeWord = true) (hd : ∀ op, i ≠ .dispatch op)
    (hs : s.Formed cfg masked) : (operate run i s).Holds (State.Formed cfg masked) := by
  cases i with
  | dispatch op => exact absurd rfl (hd op)
  | illegalLineA rest => exact illegalHandler_formed hrun _ hs
  | illegalLineF rest => exact illegalHandler_formed hrun _ hs
  | illegalOther line rest => exact illegalHandler_formed hrun _ hs
  | nop => exact opNop_formed hrun hs
  | stop => exact opStop_formed hrun hs
  | rte => exact opRte_formed hrun hs
  | rts => exact opRts_formed hrun hs
  | trapv => exact opTrapv_formed hrun hs
  | trap n => exact opTrap_formed hrun n hs
  | link an => exact opLink_formed hrun an hs
  | jsr eaMode eaReg => exact opJsr_formed hrun eaMode eaReg hs
  | illegal => exact illegalHandler_formed hrun _ hs
  | moveWAbsLD0 => exact opMoveWAbsLD0_formed hrun hs
  | _ => exact absurd hi Bool.false_ne_true

/-- DISPATCH keeps the form, the handler injected or not. -/
theorem opDispatch_formed (op : Half) (hs : s.Formed cfg masked) :
    (opDispatch run op s).Holds (State.Formed cfg masked) := by
  unfold opDispatch
  split
  · exact injectedHandler_formed hrun op hs
  · obtain ⟨-, -, hop, hrow⟩ := decodeWord_isRowOf op
    rw [defaultHandler_eq_operate]
    exact operate_row_formed hrun hop hrow hs

omit hrun in
theorem opExecute_formed (hs : s.Formed cfg masked) : (opExecute s).Holds (State.Formed cfg masked) := by
  unfold opExecute
  split
  · trivial
  · exact hs

/-- Every instruction keeps the form. -/
theorem operate_formed (i : Instr) (hs : s.Formed cfg masked) : (operate run i s).Holds (State.Formed cfg masked) := by
  cases i with
  | dispatch op => exact opDispatch_formed hrun op hs
  | reset hardware => exact opReset_formed hrun hardware hs
  | execute => exact opExecute_formed hs
  | executeSpecial => exact specialPass_formed hrun .special (hs.push _)
  | executeStoppedLoop =>
    exact (enterStoppedLoop_formed hrun (hs.push _)).andThen fun e _ ht => afterTick_formed hrun .port e ht
  | breakCheck => exact (breakCheck_formed hrun hs).andThen fun _ _ ht => ht
  | processException vector => exact processException_formed hrun vector hs
  | processInterrupt level => exact processInterrupt_formed hrun level hs
  | processIllegalInstruction op => exact processException_formed hrun _ hs
  | busError addr size dir => exact memoryFault_formed hrun ⟨.bus, addr, size, dir⟩ hs
  | addressError addr size dir => exact memoryFault_formed hrun ⟨.address, addr, size, dir⟩ hs
  | setPC addr => exact setPC_formed hrun addr hs
  | setSR value => exact hs.setSR value
  | getRegister id => exact opGetRegister_formed id hs
  | setRegister id value => exact opSetRegister_formed hrun id value hs
  | setRegisters regs => exact opSetRegisters_formed hrun regs hs
  | load file => exact opLoad_formed hrun file hs
  | installHook kind key cb => exact opInstallHook_formed kind key cb hs
  | removeHook kind key cb => exact opRemoveHook_formed kind key cb hs
  | eventJSR ev => exact eventPort_formed hrun _ ev hs
  | eventJSRInd ev => exact eventPort_formed hrun _ ev hs
  | eventLINK ev => exact eventLINK_formed hrun ev hs
  | eventRTE ev => exact eventPort_formed hrun _ ev hs
  | eventRTS ev => exact eventPort_formed hrun _ ev hs
  | eventNewSP ev => exact eventNewSP_formed hrun ev hs
  | packSR | getSR | getRegisters | save => exact hs.packSR
  | setFlag | clearFlag | enterStop | cycleCount => exact hs
  | illegalLineA | illegalLineF | illegalOther | nop | stop | rte | rts | trapv | trap | link | jsr | illegal
  | moveWAbsLD0 => exact operate_row_formed hrun rfl nofun hs

theorem drive_formed (height n : Nat) (hs : s.Formed cfg masked) :
    (drive run height n s).Holds (State.Formed cfg masked) := by
  induction n generalizing s with
  | zero =>
    unfold drive
    split
    · exact hs
    · trivial
  | succ n ih =>
    unfold drive
    split
    · exact hs
    · exact (loopStep_formed hrun (fun i _ ht => operate_formed hrun i ht) hs).andThen fun _ _ ht => ih ht

end

/-- Where an operation at its port ends, it ends as the operation does. -/
theorem Run.Holds.ofOutcome {P : State → Prop} {s : State} {r : Run Unit} (h : r.Holds P) :
    (Run.ofOutcome s (r.outcome s)).Holds P := by
  cases r with
  | ok a t =>
    rw [Run.outcome_ok, Run.ofOutcome]
    split
    · exact h
    · trivial
  | abort m t => trivial
  | unfinished => rw [Run.outcome_unfinished, Run.ofOutcome, if_neg s.retry_bound_ne]; trivial
  | fault e => trivial
  | refused e => trivial

section
variable (cfg : Config) (masked : Prop)

/-- What callbacks invoke keeps the form, however deep callbacks nest. -/
theorem invoke_preserves_formed (n : Nat) : (invoke n).Preserves (State.Formed cfg masked) := by
  induction n with
  | zero => exact fun _ _ _ => trivial
  | succ n ih =>
    exact fun i s hs => (operate_formed ih i hs).andThen fun _ t ht => drive_formed ih s.acts.length t.bound ht

/-- An instruction run by `exec` keeps the form. -/
theorem execRun_preserves_formed : (execRun exec).Preserves (State.Formed cfg masked) := by
  intro i s hs
  rw [execRun, exec_eq_operate]
  exact (operate_formed (invoke_preserves_formed cfg masked _) i hs).ofOutcome

end

/-- A next state has the form: it is that of a completed operation, or that in which the operation is tried again. -/
theorem Run.Holds.next_formed {cfg : Config} {masked : Prop} {s t : State} {r : Run Unit} (hs : s.Formed cfg masked)
    (hr : r.Holds (State.Formed cfg masked)) (hnext : r.outcome s = .next t) : t.Formed cfg masked := by
  rcases Run.outcome_eq_next.1 hnext with ⟨_, rfl⟩ | ⟨-, rfl⟩
  · exact hr
  · exact hs

/-- A step keeps the form: it is the loop's, or takes a call at the port that is not refused. -/
theorem State.Formed.step {cfg : Config} {masked : Prop} {s t : State} (hs : s.Formed cfg masked)
    (hstep : step s = .next t) : t.Formed cfg masked := by
  cases hport : s.port with
  | nil =>
    have hloop := loopStep_formed (invoke_preserves_formed cfg masked s.answers.length)
      (execRun_preserves_formed cfg masked) hs
    exact hloop.next_formed hs ((step_eq_loopStep hport).symm.trans hstep)
  | cons c rest =>
    have hcall := execRun_preserves_formed cfg masked c.val { s with port := rest } hs
    simp only [Machine.step, stepFrom, hport] at hstep
    split at hstep
    · cases hstep
    · exact hcall.next_formed hs hstep

/-- Settles O59: a step keeps the form, with the parameters of `s` and, where `s` is masked, the mask. -/
theorem stepKeepsForm : Obligations.StepKeepsForm := by
  intro s t hinv hstep
  have hs : s.Formed s.cfg (s.HandlersKeepSRMasked ∧ s.SRMasked) := ⟨hinv, rfl, id⟩
  obtain ⟨hform, hcfg, hmasked⟩ := hs.step hstep
  exact ⟨hform, hcfg, fun hkeep hsr => hmasked ⟨hkeep, hsr⟩⟩

end Sys2Proof.Machine
end

section
/-! PROOF. The hook registry (spec 42 R120 to R123): the list a kind and key name, and what a registration appended or
the first match deleted does to each list. -/

namespace Sys2Proof.Machine

/-! ## The lists of the registry -/

/-- The list of a kind and key: the vector's for the exception kind, the kind's own for every other (spec 42 R120). -/
theorem HookKey.of_eq_some {kind : HookKind} {key : Nat} {k : HookKey}
    (h : (kind = .exception ∧ key ≤ 255 ∧ k = .exception key) ∨
      (kind, k) ∈ [(HookKind.jsr, HookKey.jsr), (.jsrInd, .jsrInd), (.link, .link), (.rte, .rte), (.rts, .rts),
        (.newPC, .newPC), (.newSP, .newSP)]) : HookKey.of kind key = some k := by
  rcases h with ⟨rfl, hle, rfl⟩ | hmem
  · exact if_pos hle
  · simp only [List.mem_cons, Prod.mk.injEq, List.not_mem_nil, or_false] at hmem
    rcases hmem with ⟨rfl, rfl⟩ | ⟨rfl, rfl⟩ | ⟨rfl, rfl⟩ | ⟨rfl, rfl⟩ | ⟨rfl, rfl⟩ | ⟨rfl, rfl⟩ | ⟨rfl, rfl⟩ <;> rfl

/-- The registrations of a list, one after the other. -/
theorem State.hookList_cons (s : State) (e : HookKey × Callback) (l : List (HookKey × Callback)) (k : HookKey) :
    State.hookList { s with hooks := e :: l } k =
      if e.1 = k then e.2 :: State.hookList { s with hooks := l } k else State.hookList { s with hooks := l } k := by
  simp only [State.hookList, List.filterMap_cons]
  split_ifs <;> rfl

/-- A registration appended stands at the end of its own list (spec 42 R121). -/
theorem State.hookList_append_same (s : State) (k : HookKey) (cb : Callback) :
    State.hookList { s with hooks := s.hooks ++ [(k, cb)] } k = s.hookList k ++ [cb] := by
  simp [State.hookList]

/-- A registration appended leaves every other list alone. -/
theorem State.hookList_append_other (s : State) {k k' : HookKey} (hne : k' ≠ k) (cb : Callback) :
    State.hookList { s with hooks := s.hooks ++ [(k, cb)] } k' = s.hookList k' := by
  simp [State.hookList, hne.symm]

/-- A deletion takes the first match out of its own list (spec 42 R122). -/
theorem State.hookList_erase_same (s : State) (l : List (HookKey × Callback)) (k : HookKey) (cb : Callback) :
    State.hookList { s with hooks := l.erase (k, cb) } k = (State.hookList { s with hooks := l } k).erase cb := by
  induction l with
  | nil => rfl
  | cons e l ih =>
    obtain ⟨k', cb'⟩ := e
    rw [List.erase_cons, State.hookList_cons]
    by_cases hk : k' = k
    · by_cases hcb : cb' = cb
      · simp [hk, hcb]
      · simp [hk, hcb, State.hookList_cons, ih]
    · simp [hk, State.hookList_cons, ih]

/-- A deletion leaves every other list alone. -/
theorem State.hookList_erase_other (s : State) (l : List (HookKey × Callback)) {k k' : HookKey} (hne : k' ≠ k)
    (cb : Callback) :
    State.hookList { s with hooks := l.erase (k, cb) } k' = State.hookList { s with hooks := l } k' := by
  induction l with
  | nil => rfl
  | cons e l ih =>
    rw [List.erase_cons, State.hookList_cons]
    by_cases he : e = (k, cb)
    · simp [he, hne.symm]
    · simp [he, State.hookList_cons, ih]

/-! ## The operations -/

section
variable {kind : HookKind} {key : Nat}

/-- installHook appends, or is refused while the list is being invoked (spec 42 R121, R123). -/
theorem exec_installHook {k : HookKey} (hk : HookKey.of kind key = some k) (cb : Callback) (s : State) :
    exec (.installHook kind key cb) s =
      if k ∈ s.busy then .refused .hookListBusy else .next { s with hooks := s.hooks ++ [(k, cb)] } := by
  rw [exec_eq_operate, operate, opInstallHook, hk]
  dsimp only
  split <;> rfl

/-- removeHook deletes the first match, or is refused while the list is being invoked (spec 42 R122, R123; log 43). -/
theorem exec_removeHook {k : HookKey} (hk : HookKey.of kind key = some k) (cb : Callback) (s : State) :
    exec (.removeHook kind key cb) s =
      if k ∈ s.busy then .refused .hookListBusy else .next { s with hooks := s.hooks.erase (k, cb) } := by
  rw [exec_eq_operate, operate, opRemoveHook, hk]
  dsimp only
  split <;> rfl

/-- Without a list both operations are refused (spec 42 R121). -/
theorem exec_hook_badKey (hk : HookKey.of kind key = none) (cb : Callback) (s : State) :
    exec (.installHook kind key cb) s = .refused .badHookKey ∧
      exec (.removeHook kind key cb) s = .refused .badHookKey := by
  rw [exec_eq_operate, exec_eq_operate, operate, operate, opInstallHook, opRemoveHook, hk]
  exact ⟨rfl, rfl⟩

end

/-- Settles O17: the next states of both operations, and what they show of each list. -/
theorem hookRegistryAppendsAndDeletesFirstMatch : Obligations.HookRegistryAppendsAndDeletesFirstMatch := by
  intro kind key cb s
  refine ⟨fun k hnames => ⟨fun hfree => ⟨?install, ?remove⟩, fun hbusy => ?busy⟩, fun hexc hbig => ?badKey⟩
  case install =>
    exact ⟨_, (exec_installHook (HookKey.of_eq_some hnames) cb s).trans (if_neg hfree), s.hookList_append_same k cb,
      fun _ hne => s.hookList_append_other hne cb, rfl⟩
  case remove =>
    exact ⟨_, (exec_removeHook (HookKey.of_eq_some hnames) cb s).trans (if_neg hfree),
      s.hookList_erase_same s.hooks k cb, fun _ hne => s.hookList_erase_other s.hooks hne cb, rfl⟩
  case busy =>
    exact ⟨(exec_installHook (HookKey.of_eq_some hnames) cb s).trans (if_pos hbusy),
      (exec_removeHook (HookKey.of_eq_some hnames) cb s).trans (if_pos hbusy)⟩
  case badKey =>
    subst hexc
    have hnone : HookKey.of .exception key = none := if_neg (Nat.not_le.2 hbig)
    exact exec_hook_badKey hnone cb s

end Sys2Proof.Machine
end

section
/-! PROOF. The status word (spec 30 R63, 43 R135 to R140): its bits one by one, the two conversions, and the operations on
it. -/

namespace Sys2Proof

open Machine

/-! ## The bits of the packed word -/

/-- The bits of the packed status word, least significant first (spec 43 R135). -/
def RegFile.statusBits (r : RegFile) : List Bool :=
  [r.c, r.v, r.z, r.n, r.x, false, false, false, r.imask.getLsbD 0, r.imask.getLsbD 1, r.imask.getLsbD 2, false,
    r.m, r.s, r.t0, r.t1]

/-- Each bit of the packed word (spec 43 R135). -/
theorem RegFile.pack_getElem (r : RegFile) {i : Nat} (hi : i < 16) : r.pack[i] = r.statusBits.getD i false := by
  rw [← BitVec.getLsbD_eq_getElem]
  -- The widths as they stand in `pack`: with their sum in one number the later appends are not seen.
  refine (BitVec.getLsbD_append (n := 1 + 1 + 1 + 1 + 1 + 3 + 3 + 1 + 1 + 1 + 1)).trans ?_
  simp only [BitVec.getLsbD_append]
  interval_cases i <;> simp [RegFile.statusBits]

/-- Settles O4: the two words agree bit by bit. -/
theorem packPutsEachFieldInPlace : Obligations.PackPutsEachFieldInPlace := by
  intro r
  refine BitVec.eq_of_getElem_eq fun i hi => ?_
  rw [r.pack_getElem hi]
  interval_cases i <;> simp [RegFile.statusBits]

/-- Settles O5: the bits of the packed word are those of the fields, and a field is the bits `unpack` reads. -/
theorem statusConversionsAreInverse : Obligations.StatusConversionsAreInverse := by
  refine ⟨fun r v => BitVec.eq_of_getElem_eq fun i hi => ?_, fun r => ?_⟩
  · rw [RegFile.pack_getElem _ hi]
    interval_cases i <;> simp [RegFile.statusBits, RegFile.unpack]
  · have himask : r.pack.extractLsb' 8 3 = r.imask := by
      refine BitVec.eq_of_getElem_eq fun i hi => ?_
      interval_cases i <;> simp [RegFile.pack_getElem, RegFile.statusBits]
    simp [RegFile.unpack, himask, RegFile.pack_getElem, RegFile.statusBits]

/-- The swap of the stack pointers, cell by cell (spec 43 R139). -/
theorem RegFile.swapStacks_eq (r : RegFile) (oldS : Bool) :
    r.swapStacks oldS = { r with
      a := if oldS = r.s then r.a else r.a.set 7 (if oldS then r.usp else r.ssp)
      ssp := if oldS = true ∧ r.s = false then r.a[7] else r.ssp
      usp := if oldS = false ∧ r.s = true then r.a[7] else r.usp } := by
  match oldS, hs : r.s with
  | true, false | false, true => simp [RegFile.swapStacks, hs]
  | false, false | true, true => simp [RegFile.swapStacks, hs]; rw [← hs]

end Sys2Proof

namespace Sys2Proof.Machine

/-! ## The operations on the status word -/

/-- Settles O6: the next states written out. -/
theorem packSRAndGetSRMakeCacheCurrent : Obligations.PackSRAndGetSRMakeCacheCurrent :=
  fun _ => ⟨exec_of_completes rfl, exec_of_completes rfl⟩

/-- SetSR as a whole next state (spec 43 R139). -/
theorem exec_setSR (v : Half) (s : State) : exec (.setSR v) s = .next (s.setSR v) :=
  exec_of_completes rfl

/-- Settles O7: the swap is `RegFile.swapStacks_eq`, every other cell is written plainly. -/
theorem setSRWritesStatusAndSwapsStacks : Obligations.SetSRWritesStatusAndSwapsStacks := by
  intro v s
  rw [exec_setSR, State.setSR, RegFile.swapStacks_eq]
  rfl

end Sys2Proof.Machine
end

section
/-! PROOF. Access to the named cells (spec 43 R142 to R144, 30 R71). -/

namespace Sys2Proof.Machine

/-! ## Register identifiers -/

/-- D[n] is number n (spec 30 R71). -/
theorem RegId.ofNumber_d (n : Fin 8) : RegId.ofNumber n = some (.d n) := dif_pos n.isLt

/-- A[n] is number 8 + n (spec 30 R71). -/
theorem RegId.ofNumber_a (n : Fin 8) : RegId.ofNumber (8 + n) = some (.a n) := by
  simp [RegId.ofNumber, show 8 + n.val < 16 by omega]

/-- A number above 25 names no register (spec 30 R71). -/
theorem RegId.ofNumber_eq_none {n : Nat} (hn : 25 < n) : RegId.ofNumber n = none := by
  simp (disch := omega) only [RegId.ofNumber, dif_neg, if_neg]

/-! ## Reads and writes of one cell -/

section
variable {n : Nat} {id : RegId}

/-- getRegister of a cell other than SR returns it (spec 43 R142). -/
theorem exec_getRegister (hid : RegId.ofNumber n = some id) (hsr : id ≠ .sr) (s : State) :
    exec (.getRegister n) s = .next (s.returns (.word (s.regs.cell id))) := by
  refine exec_of_completes ?_
  rw [operate, opGetRegister, hid]
  cases id with
  | sr => exact absurd rfl hsr
  | _ => rfl

/-- setRegister of a cell other than PC, SR and A[7] writes it plainly (spec 43 R143). -/
theorem exec_setRegister (hid : RegId.ofNumber n = some id) (hpc : id ≠ .pc) (hsr : id ≠ .sr) (hsp : id ≠ .a 7)
    (v : Word) (s : State) :
    exec (.setRegister n v) s = .next { s with regs := s.regs.putCell id v } := by
  refine exec_of_completes ?_
  rw [operate, opSetRegister, hid]
  cases id with
  | pc => exact absurd rfl hpc
  | sr => exact absurd rfl hsr
  | a k => exact if_neg fun hk => hsp (congrArg RegId.a hk)
  | _ => rfl

end

/-- A number that names no register is refused (spec 30 R71). -/
theorem exec_register_unknown {n : Nat} (hid : RegId.ofNumber n = none) (v : Word) (s : State) :
    exec (.getRegister n) s = .refused .unknownRegister ∧ exec (.setRegister n v) s = .refused .unknownRegister := by
  rw [exec_eq_operate, exec_eq_operate, operate, operate, opGetRegister, opSetRegister, hid]
  exact ⟨rfl, rfl⟩

/-- Settles O10: every cell but SR by `exec_getRegister`, SR and the record packed first. -/
theorem getRegisterAndGetRegistersReturnCells : Obligations.GetRegisterAndGetRegistersReturnCells := by
  intro s
  have hread {n : Nat} {id : RegId} (hid : RegId.ofNumber n = some id) (hsr : id ≠ .sr) := exec_getRegister hid hsr s
  exact ⟨fun n => hread (RegId.ofNumber_d n) nofun, fun n => hread (RegId.ofNumber_a n) nofun,
    hread (id := .pc) rfl nofun, exec_of_completes rfl, hread (id := .usp) rfl nofun, hread (id := .ssp) rfl nofun,
    hread (id := .vbr) rfl nofun, hread (id := .sfc) rfl nofun, hread (id := .dfc) rfl nofun,
    hread (id := .fpcr) rfl nofun, hread (id := .fpsr) rfl nofun, hread (id := .fpiar) rfl nofun,
    fun _ hn => (exec_register_unknown (RegId.ofNumber_eq_none hn) 0 s).1, exec_of_completes rfl⟩

/-- Settles O11: every plain cell by `exec_setRegister`, A[n] with n below 7 among them; SR is SetSR's state. -/
theorem setRegisterWritesNamedCell : Obligations.SetRegisterWritesNamedCell := by
  intro s v
  have hwrite {n : Nat} {id : RegId} (hid : RegId.ofNumber n = some id) (hpc : id ≠ .pc) (hsr : id ≠ .sr)
      (hsp : id ≠ .a 7) := exec_setRegister hid hpc hsr hsp v s
  have ha (n : Fin 7) : RegId.a n.castSucc ≠ .a 7 := fun h => n.castSucc_lt_last.ne (RegId.a.inj h)
  exact ⟨fun n => hwrite (RegId.ofNumber_d n) nofun nofun nofun,
    fun n => hwrite (RegId.ofNumber_a n.castSucc) nofun nofun (ha n), rfl,
    hwrite (id := .usp) rfl nofun nofun nofun, hwrite (id := .ssp) rfl nofun nofun nofun,
    hwrite (id := .vbr) rfl nofun nofun nofun, hwrite (id := .sfc) rfl nofun nofun nofun,
    hwrite (id := .dfc) rfl nofun nofun nofun, hwrite (id := .fpcr) rfl nofun nofun nofun,
    hwrite (id := .fpsr) rfl nofun nofun nofun, hwrite (id := .fpiar) rfl nofun nofun nofun,
    fun _ hn => (exec_register_unknown (RegId.ofNumber_eq_none hn) v s).2⟩

end Sys2Proof.Machine
end

section
/-! PROOF. Persistence (spec 43 R145 to R148, 30 R72): what stands in a file after `save`, and what `load` makes of a file
whose bytes show a register file. -/

namespace Sys2Proof.Machine

/-! ## Session files -/

/-- A file written holds the bytes written (spec 43 R146). -/
theorem State.file_putFile_same (s : State) (f : FileId) (b : List Byte) : (s.putFile f b).file f = some b := by
  simp [State.file]

/-- A file written leaves every other file alone. -/
theorem State.file_putFile_other (s : State) {f g : FileId} (hne : g ≠ f) (b : List Byte) :
    (s.putFile f b).file g = s.file g := by
  have hkept (e : FileId × List Byte) : e.1 ≠ f ∧ e.1 = g ↔ e.1 = g :=
    and_iff_right_of_imp fun he => he.trans_ne hne
  simp [State.file, hne.symm, List.find?_filter, hkept]

/-- save packs SR and writes the blob, which does not hold SR (spec 43 R146, 30 R72). -/
theorem exec_save (f : FileId) (s : State) : exec (.save f) s = .next (s.packSR.putFile f s.regs.blob) :=
  exec_of_completes rfl

/-- Settles O14: the next state is `exec_save`'s, and the blob shows its register file. -/
theorem saveWritesBlobOfCells : Obligations.SaveWritesBlobOfCells := fun f s =>
  ⟨_, _, exec_save f s, State.file_putFile_same _ f _, fun _ hne => State.file_putFile_other _ hne _, rfl,
    s.regs.shown_blob⟩

/-! ## The PC installed after a register set is loaded -/

/-- The state in which an observing environment leaves `SetPC` (spec 40 R88). -/
def State.pcInstalled (s : State) (pc : Word) : State :=
  (s.calledAll (s.setPCCalls pc)).putPC pc

theorem State.pcInstalled_hooks (s : State) (pc : Word) : (s.pcInstalled pc).hooks = s.hooks :=
  State.calledAll_hooks s _

theorem State.pcInstalled_machine (s : State) (pc : Word) : (s.pcInstalled pc).machine = (s.putPC pc).machine := by
  rw [State.pcInstalled, State.putPC_machine, State.calledAll_machine, State.putPC_machine]

theorem State.pcInstalled_calls (s : State) (pc : Word) :
    (s.pcInstalled pc).calls = .checkNewPC pc :: ((s.hookCalls .newPC (.address pc)).reverse ++ s.calls) := by
  rw [State.pcInstalled, State.putPC_calls, State.calledAll_calls, State.setPCCalls, List.reverse_append]
  rfl

theorem State.Observing.pcInstalled {s : State} (h : s.Observing) (pc : Word) : (s.pcInstalled pc).Observing :=
  (h.calledAll _).congr rfl

section
variable (run : Runner) (pc : Word) {s : State}

/-- In an observing environment the PC is installed, and the new-PC hooks, the validation and the new-SP hooks are called in
this order (spec 43 R145, R147). -/
theorem contextSwitch_observing (hobs : s.Observing) :
    ∃ t ev, contextSwitch run pc s = .ok () t ∧ t.machine = (s.putPC pc).machine ∧
      t.calls = (s.hookCalls .newSP (.event ev)).reverse ++
        (.checkNewPC pc :: ((s.hookCalls .newPC (.address pc)).reverse ++ s.calls)) := by
  have hset : setPC run pc s = .ok () (s.pcInstalled pc) := setPC_observing run pc hobs
  have hnewSP (ev : EventRecord) : eventNewSP run ev (s.pcInstalled pc) =
      .ok () ((s.pcInstalled pc).calledAll (s.hookCalls .newSP (.event ev))) := by
    rw [eventNewSP_observing run ev (hobs.pcInstalled pc), State.hookCalls_congr (s.pcInstalled_hooks pc)]
  have hswitch : contextSwitch run pc s = eventNewSP run (freeRecord (s.pcInstalled pc)) (s.pcInstalled pc) := by
    rw [contextSwitch, hset, Run.noAbort_ok, Run.andThen_ok]
  refine ⟨_, freeRecord (s.pcInstalled pc), hswitch.trans (hnewSP _), ?machine, ?calls⟩
  case machine =>
    rw [State.calledAll_machine, State.pcInstalled_machine]
  case calls =>
    rw [State.calledAll_calls, State.pcInstalled_calls]

/-- A memory fault of the validation is the double fault (spec 60 R172). -/
theorem contextSwitch_rejected {m : MemFault} (hsil : s.Silent) (hfault : s.validatorFault pc = some m) :
    contextSwitch run pc s = .refused .doubleFault := by
  rw [contextSwitch, setPC_silent run pc hsil, hfault]
  rfl

end

/-! ## load -/

/-- The state in which load has written the cells of a register file and packed SR; STOPPED is not in a blob (spec 43
R147). -/
def State.loaded (s : State) (r : RegFile) : State :=
  { s with regs := { r with sr := r.pack, stopped := s.regs.stopped } }

/-- load of a file that shows a register file writes its cells and installs its PC (spec 43 R147). -/
theorem opLoad_shown (run : Runner) {f : FileId} {r : RegFile} {b : List Byte} {s : State} (hshown : r.Shown b)
    (hfile : s.file f = some b) : opLoad run f s = contextSwitch run r.pc (s.loaded r) := by
  obtain rfl : b = r.blob := hshown.unique r.shown_blob
  rw [opLoad, hfile]
  dsimp only
  rw [RegFile.ofBlob_blob]
  rfl

/-- load of a file that shows a register file, in an observing environment (spec 43 R147). -/
theorem exec_load_observing {f : FileId} {r : RegFile} {b : List Byte} {s : State} (hshown : r.Shown b)
    (hfile : s.file f = some b) (hobs : s.Observing) :
    ∃ t ev, exec (.load f) s = .next t ∧ t.machine = (s.loaded r).machine ∧
      t.calls = (s.hookCalls .newSP (.event ev)).reverse ++
        (.checkNewPC r.pc :: ((s.hookCalls .newPC (.address r.pc)).reverse ++ s.calls)) := by
  obtain ⟨t, ev, hdone, hmachine, hcalls⟩ :=
    contextSwitch_observing s.runner r.pc (s := s.loaded r) (hobs.congr rfl)
  exact ⟨t, ev, exec_of_completes ((opLoad_shown s.runner hshown hfile).trans hdone), hmachine, hcalls⟩

/-- Settles O15: load in an observing environment, the file being the one that save wrote; and the rejected validation. -/
theorem saveThenLoadRoundTrips : Obligations.SaveThenLoadRoundTrips := by
  refine ⟨fun f r b s hshown hfile hobs => exec_load_observing hshown hfile hobs,
    fun f s s1 s2 hsave hkept hobs => ?roundTrip, fun f r b s m hshown hfile hsil hfault => ?rejected⟩
  case roundTrip =>
    obtain rfl : s.packSR.putFile f s.regs.blob = s1 := by simpa [exec_save] using hsave
    exact exec_load_observing s.regs.shown_blob (hkept.trans (State.file_putFile_same _ f _)) hobs
  case rejected =>
    have hsame : (s.loaded r).validatorFault r.pc = s.validatorFault r.pc :=
      State.validatorFault_congr (s := s) (t := s.loaded r) rfl rfl r.pc
    have hload := (opLoad_shown s.runner hshown hfile).trans
      (contextSwitch_rejected s.runner r.pc (s := s.loaded r) (hsil.congr rfl) (hsame.trans hfault))
    rw [exec_eq_operate]
    exact congrArg (Run.outcome · s) hload

end Sys2Proof.Machine
end

section
/-! PROOF. Writes of PC, A[7] and the whole register record by the host (spec 43 R143, R145, 60 R172). -/

namespace Sys2Proof.Machine

/-- setRegister of PC is SetPC, a memory fault of the validation being refused (spec 43 R143, 60 R172). -/
theorem operate_setRegister_pc (run : Runner) (v : Word) (s : State) :
    operate run (.setRegister 16 v) s = (setPC run v s).noAbort := rfl

/-- setRegister of A[7] writes the cell and runs the new-SP hooks (spec 43 R143). -/
theorem operate_setRegister_sp (run : Runner) (v : Word) (s : State) :
    operate run (.setRegister 15 v) s = eventNewSP run (freeRecord s) (s.putSP v) := rfl

/-- Settles O12: `SetPC` in an observing environment, the new-SP hooks, and `SetPC` cut short by the validator. -/
theorem setRegisterOfPCAndSPRunsHooks : Obligations.SetRegisterOfPCAndSPRunsHooks := by
  refine ⟨fun s v hobs => ⟨?pc, ?sp⟩, fun s v m hsil hfault => ?rejected⟩
  case pc =>
    have hset : (setPC s.runner v s).noAbort = .ok () (s.pcInstalled v) := by
      rw [setPC_observing s.runner v hobs, Run.noAbort_ok, State.pcInstalled]
    exact ⟨_, exec_of_completes ((operate_setRegister_pc _ v s).trans hset), s.pcInstalled_machine v,
      s.pcInstalled_calls v⟩
  case sp =>
    have hput : (s.putSP v).Observing := hobs
    exact ⟨_, freeRecord s,
      exec_of_completes ((operate_setRegister_sp _ v s).trans (eventNewSP_observing s.runner _ hput)),
      State.calledAll_machine _ _, State.calledAll_calls _ _⟩
  case rejected =>
    rw [exec_eq_operate, operate_setRegister_pc, setPC_silent s.runner v hsil, hfault, Run.noAbort_abort,
      Run.outcome_refused]

/-- The state in which setRegisters has loaded the fields of a record, PC not yet installed (spec 43 R145). -/
def State.recordLoaded (s : State) (r : RegFile) : State :=
  { s with regs := loadRecord r s.regs }

/-- setRegisters loads the record and installs its PC (spec 43 R145). -/
theorem operate_setRegisters (run : Runner) (r : RegFile) (s : State) :
    operate run (.setRegisters r) s = contextSwitch run r.pc (s.recordLoaded r) := rfl

/-- The loaded record with its PC installed: its packed word is the authority for the fields (spec 43 R145). -/
theorem State.recordLoaded_putPC (s : State) (r : RegFile) :
    (s.recordLoaded r).putPC r.pc =
      { s with regs := ({ r with sr := r.sr &&& 0xF71F } : RegFile).unpack (r.sr &&& 0xF71F) } := rfl

/-- Settles O13: the record is loaded, then `contextSwitch`, observed or rejected. -/
theorem setRegistersLoadsRecord : Obligations.SetRegistersLoadsRecord := by
  refine ⟨fun s r hobs => ?observing, fun s r m hsil hfault => ?rejected⟩
  case observing =>
    obtain ⟨t, ev, hdone, hmachine, hcalls⟩ :=
      contextSwitch_observing s.runner r.pc (s := s.recordLoaded r) (hobs.congr rfl)
    exact ⟨t, ev, exec_of_completes hdone, hmachine.trans (congrArg State.machine (s.recordLoaded_putPC r)), hcalls⟩
  case rejected =>
    have hsame : (s.recordLoaded r).validatorFault r.pc = s.validatorFault r.pc :=
      State.validatorFault_congr (s := s) (t := s.recordLoaded r) rfl rfl r.pc
    have hsil' : (s.recordLoaded r).Silent := hsil.congr rfl
    rw [exec_eq_operate, operate_setRegisters, contextSwitch_rejected s.runner r.pc hsil' (hsame.trans hfault),
      Run.outcome_refused]

end Sys2Proof.Machine
end

section
/-! PROOF. Exceptions, memory faults and interrupts at their ports (spec 60 R160 to R169, R174). -/

namespace Sys2Proof.Machine

/-- Vectors 2 and 3 push the long frame (spec 60 R164). -/
theorem hasLongFrame_iff {v : Nat} : hasLongFrame v = true ↔ v = 2 ∨ v = 3 := by
  simp [hasLongFrame, vecBusError, vecAddressError]

/-- Settles O21: `processException_short` at its port. -/
theorem shortFrameExceptionEntry : Obligations.ShortFrameExceptionEntry := by
  intro v s hv h2 h3 hobs hwf hunhandled hfits
  have hshort : hasLongFrame v = false :=
    Bool.eq_false_iff.2 fun hlong => (hasLongFrame_iff.1 hlong).elim h2 h3
  obtain ⟨t, hdone, henters, -, -⟩ := processException_short s.runner hobs hwf hv hshort hunhandled hfits
  exact ⟨t, exec_of_completes hdone, henters⟩

/-- Settles O22: `processException_long` at its port. -/
theorem longFrameExceptionEntry : Obligations.LongFrameExceptionEntry := by
  intro v s hlong hobs hwf hunhandled hfits
  have hv : v ≤ 255 := by omega
  obtain ⟨t, hdone, henters, -, -⟩ :=
    processException_long s.runner hobs hwf hv (hasLongFrame_iff.2 hlong) hunhandled hfits
  exact ⟨t, exec_of_completes hdone, henters⟩

/-- Settles O23: `processException_handled` at its port. -/
theorem handledExceptionOnlyPacksSR : Obligations.HandledExceptionOnlyPacksSR := fun _ s hv hobs hhandled =>
  ⟨_, exec_of_completes (processException_handled s.runner hobs.silent hv hhandled), State.calledAll_machine s.packSR _,
    State.calledAll_calls s.packSR _⟩

/-- Settles O25: both ports are `memoryFault`, and recording a fault changes nothing that taking an exception looks at. -/
theorem busErrorAndAddressErrorRecordAndTake : Obligations.BusErrorAndAddressErrorRecordAndTake := by
  refine fun addr size dir s => ⟨fun hcan => ?bus, fun hcan => ?address⟩
  case bus =>
    obtain ⟨t, hdone, htakes⟩ := memoryFault_takes s.runner (s := s) ⟨.bus, addr, size, dir⟩ hcan
    exact ⟨t, exec_of_completes hdone, htakes⟩
  case address =>
    obtain ⟨t, hdone, htakes⟩ := memoryFault_takes s.runner (s := s) ⟨.address, addr, size, dir⟩ hcan
    exact ⟨t, exec_of_completes hdone, htakes⟩

/-- A `ProcessInterrupt` that completes has written the mask and set INT, whatever the environment does (spec 60 R174). -/
theorem processInterrupt_sets {run : Runner} {level : Nat} {s t : State} {u : Unit}
    (h : processInterrupt run level s = .ok u t) : t.regs.imask.toNat = level ∧ t.sf.int = true := by
  unfold processInterrupt at h
  split at h
  · cases h
  · next hlevel =>
    obtain ⟨a, s1, -, h⟩ := Run.andThen_eq_ok.1 h
    split at h
    · cases h
    · obtain ⟨_, s2, -, h⟩ := Run.andThen_eq_ok.1 h
      cases h
      exact ⟨Nat.mod_eq_of_lt (by omega), rfl⟩

/-- Settles O27: `processInterrupt_takes` at its port, and what any completed `ProcessInterrupt` has written. -/
theorem processInterruptTakesVectorThenRaisesMask : Obligations.ProcessInterruptTakesVectorThenRaisesMask := by
  refine ⟨fun level v s hlevel hobs hv hcan => ?takes, fun level s t hnext hbound => ?sets⟩
  case takes =>
    obtain ⟨u, hdone, htakes, -⟩ := processInterrupt_takes s.runner hlevel hobs hv hcan
    exact ⟨u, exec_of_completes hdone, htakes⟩
  case sets =>
    rw [exec_eq_operate] at hnext
    obtain ⟨_, hdone⟩ := Run.outcome_completed hnext hbound
    exact processInterrupt_sets hdone

end Sys2Proof.Machine
end

section
/-! PROOF. The words TRAP, TRAPV and STOP, and the privilege violation of STOP and RTE (spec 60 R156, R173, R178, R181, R183;
95 section 3.1). -/

namespace Sys2Proof.Machine

/-! ## Step C from what the handler makes of its state -/

/-- Step C depends on what the body does in its own state alone (spec 40 R84). -/
theorem runHandler_congr {run : Runner} {body body' : State → Run Word} {s : State}
    (h : body (s.withCtx .handler) = body' (s.withCtx .handler)) : runHandler run body s = runHandler run body' s := by
  unfold runHandler
  rw [h]

/-- Whoever acted acts again. -/
theorem State.withCtx_of_ctx {s : State} {c : Ctx} (h : s.ctx = c) : s.withCtx c = s := by
  subst h
  rfl

theorem State.withCtx_withCtx (s : State) (c d : Ctx) : (s.withCtx c).withCtx d = s.withCtx d := rfl

section
variable {i : Instr} {s m : State} {body : State → Run Word} {c : Word}

/-- A word whose handler completes: the state its handler made, the cost counted (spec 40 R84). -/
theorem exec_of_handler (hi : operate s.runner i s = runHandler s.runner body s)
    (hbody : body (s.withCtx .handler) = .ok c (m.withCtx .handler)) (hctx : m.ctx = s.ctx) :
    exec i s = .next (m.addCycles c) := by
  refine exec_of_completes ((hi.trans (runHandler_ok hbody)).trans ?_)
  rw [State.withCtx_withCtx, State.withCtx_of_ctx hctx]

/-- A word whose handler takes an exception from a state `m`, its cost counted (spec 40 R84). -/
theorem exec_handler_takes {v : Nat} (hi : operate s.runner i s = runHandler s.runner body s)
    (hbody : body (s.withCtx .handler) = (processException s.runner v (m.withCtx .handler)).thenCost c)
    (hctx : m.ctx = s.ctx) (hcan : (m.addCycles c).CanTake v) :
    ∃ t, exec i s = .next t ∧ Takes v (m.addCycles c) t := by
  obtain ⟨t, hdone, htakes⟩ := runHandler_takes hbody hctx hcan
  exact ⟨t, exec_of_completes (hi.trans hdone), htakes⟩

/-- A word whose handler is cut short by a memory fault (spec 60 R171). -/
theorem faultsAt_of_handler {f : MemFault} (hi : operate s.runner i s = runHandler s.runner body s)
    (hbody : body (s.withCtx .handler) = .abort f (m.withCtx .handler)) (hctx : m.ctx = s.ctx) : FaultsAt i s m f := by
  have hfaults := faultsAt_of_body ((exec_eq_operate i s).trans (congrArg (Run.outcome · s) hi)) hbody
  rwa [State.withCtx_withCtx, State.withCtx_of_ctx hctx] at hfaults

end

/-! ## TRAP and TRAPV -/

/-- TRAPV goes past itself, then takes its vector if V is set (spec 60 R156, R178). -/
def trapvBody (run : Runner) (s : State) : Run Word :=
  if s.regs.v then (processException run 7 (s.putPC (s.regs.pc + 2))).thenCost s.cfg.externalCost
  else .ok s.cfg.externalCost (s.putPC (s.regs.pc + 2))

/-- TRAPV is step C of its body. -/
theorem operate_trapv (run : Runner) (s : State) : operate run .trapv s = runHandler run (trapvBody run) s := rfl

/-- TRAP goes past itself and takes its vector (spec 60 R173). -/
theorem operate_trap (run : Runner) (n : BitVec 4) (s : State) :
    operate run (.trap n) s = runHandler run
      (fun s => (processException run (32 + n.toNat) (s.putPC (s.regs.pc + 2))).thenCost fixtureCost) s := rfl

/-- Settles O29: TRAP takes its vector from past itself; so does TRAPV with V set, which completes there with V clear. -/
theorem trapWordsTakeTheirVectorPastTheInstruction : Obligations.TrapWordsTakeTheirVectorPastTheInstruction := by
  refine ⟨?trap, ?trapv⟩
  case trap =>
    rintro n s _ rfl hcan
    exact exec_handler_takes (m := s.putPC (s.regs.pc + 2)) (operate_trap s.runner n s) rfl rfl hcan
  case trapv =>
    rintro s _ rfl
    have hword := operate_trapv s.runner s
    refine ⟨fun hclear => ?clear, fun hset hcan => ?set⟩
    case clear =>
      have hnot : ¬ (s.withCtx .handler).regs.v = true := by simp [hclear]
      exact exec_of_handler (m := s.putPC (s.regs.pc + 2)) hword (if_neg hnot) rfl
    case set =>
      exact exec_handler_takes (m := s.putPC (s.regs.pc + 2)) hword (if_pos hset) rfl hcan

/-! ## STOP and RTE -/

/-- A privileged word in supervisor mode is its body (spec 60 R180, R181). -/
theorem runHandler_privileged (run : Runner) (body : State → Run Word) {s : State} (h : s.regs.s = true) :
    runHandler run (privileged run body) s = runHandler run body s :=
  runHandler_congr (if_pos h)

/-- A privileged word in user mode takes the privilege violation from the state in which it was fetched (spec 60 R183). -/
theorem exec_privileged_takes {i : Instr} {s : State} {body : State → Run Word}
    (hi : operate s.runner i s = runHandler s.runner (privileged s.runner body) s) (huser : s.regs.s = false)
    (hcan : (s.addCycles fixtureCost).CanTake 8) :
    ∃ t, exec i s = .next t ∧ Takes 8 (s.addCycles fixtureCost) t :=
  exec_handler_takes hi (if_neg (by simp [huser])) rfl hcan

/-- Settles O35: both words are privileged. -/
theorem privilegedWordsTrapInUserMode : Obligations.PrivilegedWordsTrapInUserMode := by
  rintro s _ huser rfl hcan
  exact ⟨exec_privileged_takes rfl huser hcan, exec_privileged_takes rfl huser hcan⟩

/-- What STOP does in supervisor mode (spec 60 R181). -/
def stopBody (s : State) : Run Word :=
  (memReadHalf (s.regs.pc + 2) s).andThen fun imm s =>
    .ok fixtureCost ((s.putPC (s.regs.pc + 4)).setSR imm).enterStop

/-- STOP in supervisor mode is step C of its body (spec 60 R181). -/
theorem operate_stop_supervisor (run : Runner) {s : State} (h : s.regs.s = true) :
    operate run .stop s = runHandler run stopBody s :=
  runHandler_privileged run stopBody h

/-- Settles O33: STOP is SetSR from past its extension word, and the swap of SetSR does not look at PC. -/
theorem stopWritesStatusAndEntersStop : Obligations.StopWritesStatusAndEntersStop := by
  intro s hsup hpermits
  have hread := memReadHalf_permitted (s := s.withCtx .handler) hpermits
  have hbody : stopBody (s.withCtx .handler) = .ok fixtureCost
      ((((s.putPC (s.regs.pc + 4)).setSR (s.half (s.regs.pc + 2))).enterStop).withCtx .handler) := by
    rw [stopBody, State.withCtx_regs, hread]
    rfl
  have hstop := exec_of_handler (operate_stop_supervisor s.runner hsup) hbody rfl
  refine ⟨_, exec_setSR _ s, hstop.trans (congrArg Host.Outcome.next ?_)⟩
  apply State.ext_fields <;> simp [RegFile.swapStacks_eq, RegFile.unpack, fixtureCost]

end Sys2Proof.Machine
end

section
/-! PROOF. Handlers that call an event port first and end in SetPC, completed or cut short; RTE and RTS (spec 40 R84, R88,
R94, R95; 60 R171, R180). -/

namespace Sys2Proof.Machine

/-! ## Accesses that are rejected (spec 20 R44) -/

section
variable {s : State} {a : Word} {kind : FaultKind}

theorem memReadHalf_rejected (h : s.cfg.policy.verdict a .two .read = some kind) :
    memReadHalf a s = .abort { kind := kind, addr := a, size := .two, dir := .read } s := by
  rw [memReadHalf, access_rejected h, Run.andThen_abort]

theorem memReadWord_rejected (h : s.cfg.policy.verdict a .four .read = some kind) :
    memReadWord a s = .abort { kind := kind, addr := a, size := .four, dir := .read } s := by
  rw [memReadWord, access_rejected h, Run.andThen_abort]

theorem memWriteWord_rejected (h : s.cfg.policy.verdict a .four .write = some kind) (v : Word) :
    memWriteWord a v s = .abort { kind := kind, addr := a, size := .four, dir := .write } s := by
  rw [memWriteWord, access_rejected h, Run.andThen_abort]

end

/-! ## A handler that has called its port -/

/-- The state in which a handler of the default table has called its event port, the record it fills being free (log 18). -/
def State.hooked (s : State) (key : HookKey) : State :=
  s.calledAll (s.hookCalls key (.event (freeRecord s)))

/-- Calling a port changes the calls noted and the answers left alone. -/
theorem State.hooked_eq (s : State) (key : HookKey) :
    s.hooked key = { s with calls := (s.hooked key).calls, answers := (s.hooked key).answers } :=
  s.calledAll_eq _

theorem State.hooked_ctx (s : State) (key : HookKey) : (s.hooked key).ctx = s.ctx := s.calledAll_ctx _

/-- A handler that calls its event port and then goes on with `rest`. -/
def afterPort (run : Runner) (key : HookKey) (rest : State → Run Word) (s : State) : Run Word :=
  (invokeHooks run key (.event (freeRecord s)) s).andThen fun _ s => rest s

/-- Where no callback does anything, a handler goes on from its port with nothing but the calls made. -/
theorem runHandler_afterPort (run : Runner) (key : HookKey) (rest : State → Run Word) {s : State} (h : s.Silent) :
    runHandler run (afterPort run key rest) s =
      runHandler run (fun _ => rest ((s.hooked key).withCtx .handler)) s := by
  refine runHandler_congr ?_
  rw [afterPort, invokeHooks_silent run key _ (s := s.withCtx .handler) h, Run.andThen_ok, State.calledAll_withCtx]
  rfl

/-- The cells of the register file, the special flags and memory as a handler has left them. -/
def State.edited (s : State) (r : RegFile) (f : SpecialFlags) (m : Memory) : State :=
  { s with regs := r, sf := f, mem := m }

/-- Calls do not depend on the cells, the flags and memory. -/
theorem State.calledAll_edited (s : State) (r : RegFile) (f : SpecialFlags) (m : Memory) (cs : List EnvCall) :
    (s.edited r f m).calledAll cs = (s.calledAll cs).edited r f m := by
  induction cs generalizing s with
  | nil => rfl
  | cons c cs ih => exact ih (s.called c)

/-! ## A handler that ends in SetPC -/

/-- `SetPC` in an observing environment, whoever acts (spec 40 R88). -/
theorem setPC_withCtx_installs (run : Runner) (pc : Word) (c : Ctx) {s : State} (h : s.Observing) :
    setPC run pc (s.withCtx c) = .ok () ((s.pcInstalled pc).withCtx c) := by
  rw [setPC_observing run pc (s := s.withCtx c) h, State.calledAll_withCtx]
  rfl

/-- `SetPC` cut short by the validator, whoever acts (spec 40 R88). -/
theorem setPC_withCtx_rejected (run : Runner) {pc : Word} (c : Ctx) {s : State} {f : MemFault} (h : s.Silent)
    (hval : s.validatorFault pc = some f) :
    setPC run pc (s.withCtx c) = .abort f ((s.calledAll (s.setPCCalls pc)).withCtx c) := by
  have hval' : (s.withCtx c).validatorFault pc = some f :=
    (State.validatorFault_congr (s := s) (t := s.withCtx c) rfl rfl pc).trans hval
  rw [setPC_silent run pc (s := s.withCtx c) h, hval', State.calledAll_withCtx]
  rfl

/-- The word calls its event port, makes of the cells, the flags and memory what is given, then installs a PC through SetPC
and returns its cost. -/
def EndsInSetPC (i : Instr) (key : HookKey) (s : State) (r : RegFile) (f : SpecialFlags) (m : Memory) (pc c : Word) :
    Prop :=
  operate s.runner i s = runHandler s.runner
    (fun _ => (setPC s.runner pc (((s.hooked key).edited r f m).withCtx .handler)).thenCost c) s

section
variable {i : Instr} {key : HookKey} {s : State} {r : RegFile} {f : SpecialFlags} {m : Memory} {pc c : Word}

theorem State.hooked_edited_hooks : ((s.hooked key).edited r f m).hooks = s.hooks := s.calledAll_hooks _

/-- The machine once the PC is installed and the cost counted. -/
theorem State.hooked_edited_machine :
    ((((s.hooked key).edited r f m).pcInstalled pc).addCycles c).machine =
      { s with regs := { r with pc := pc }, sf := f, mem := m, cyc := s.cyc + c }.machine := by
  change (((s.hooked key).edited r f m).pcInstalled pc).machine.addCycles c = _
  rw [State.pcInstalled_machine, State.hooked_eq]
  rfl

/-- The calls of the port, then those of SetPC. -/
theorem State.hooked_edited_calledAll :
    ((s.hooked key).edited r f m).calledAll (((s.hooked key).edited r f m).setPCCalls pc) =
      (s.calledAll (s.hookCalls key (.event (freeRecord s)) ++
        (s.hookCalls .newPC (.address pc) ++ [.checkNewPC pc]))).edited r f m := by
  rw [State.calledAll_edited, State.setPCCalls, State.hookCalls_congr State.hooked_edited_hooks, State.hooked,
    ← State.calledAll_append]

/-- In an observing environment such a word completes, PC installed and the cost counted (spec 40 R84, R88). -/
theorem EndsInSetPC.completes (h : EndsInSetPC i key s r f m pc c) (hobs : s.Observing) :
    ∃ t ev, exec i s = .next t ∧
      t.machine = { s with regs := { r with pc := pc }, sf := f, mem := m, cyc := s.cyc + c }.machine ∧
      t.calls = .checkNewPC pc ::
        ((s.hookCalls .newPC (.address pc)).reverse ++ ((s.hookCalls key (.event ev)).reverse ++ s.calls)) := by
  have hedited : ((s.hooked key).edited r f m).Observing := hobs.calledAll _
  have hset := congrArg (Run.thenCost · c) (setPC_withCtx_installs s.runner pc .handler hedited)
  have hctx : (((s.hooked key).edited r f m).pcInstalled pc).ctx = s.ctx :=
    (State.calledAll_ctx _ _).trans (s.hooked_ctx key)
  refine ⟨_, freeRecord s, exec_of_handler h hset hctx, State.hooked_edited_machine, ?_⟩
  rw [State.addCycles_calls, State.pcInstalled_calls, State.hookCalls_congr State.hooked_edited_hooks]
  exact congrArg _ (congrArg _ (s.calledAll_calls _))

/-- Where the validation ends in a memory fault such a word is cut short, PC as the handler had left it (spec 60 R171). -/
theorem EndsInSetPC.faultsAt (h : EndsInSetPC i key s r f m pc c) (hsil : s.Silent) {e : MemFault}
    (hval : (s.hooked key).validatorFault pc = some e) :
    FaultsAt i s
      ((s.calledAll (s.hookCalls key (.event (freeRecord s)) ++
        (s.hookCalls .newPC (.address pc) ++ [.checkNewPC pc]))).edited r f m) e := by
  have hedited : ((s.hooked key).edited r f m).Silent := hsil.calledAll _
  have hval' : ((s.hooked key).edited r f m).validatorFault pc = some e :=
    (State.validatorFault_congr (s := s.hooked key) (t := (s.hooked key).edited r f m) rfl rfl pc).trans hval
  have hset := congrArg (Run.thenCost · c) (setPC_withCtx_rejected s.runner .handler hedited hval')
  rw [State.hooked_edited_calledAll] at hset
  exact faultsAt_of_handler h hset (s.calledAll_ctx _)

end

/-! ## RTE (spec 60 R180) -/

/-- What RTE does in supervisor mode after its port. -/
def rteReturn (run : Runner) (s : State) : Run Word :=
  (returnFromException run s).thenCost fixtureCost

section
variable (run : Runner) {s : State} {kind : FaultKind}

/-- RTE in supervisor mode, its port called. -/
theorem operate_rte (hsup : s.regs.s = true) (hsil : s.Silent) :
    operate run .rte s = runHandler run (fun _ => rteReturn run ((s.hooked .rte).withCtx .handler)) s :=
  (runHandler_privileged run _ hsup).trans (runHandler_afterPort run .rte (rteReturn run) hsil)

theorem rteReturn_permitted (hsr : s.Permits s.sp .two .read) (hpc : s.Permits (s.sp + 2) .four .read) :
    rteReturn run s =
      (setPC run (s.word (s.sp + 2)) ((s.putSP (s.sp + 6)).setSR (s.half s.sp))).thenCost fixtureCost := by
  simp only [rteReturn, returnFromException, memReadHalf_permitted hsr, memReadWord_permitted hpc, Run.andThen_ok]

/-- The pop of SR cut short (spec 60 R171). -/
theorem rteReturn_rejected_sr (h : s.cfg.policy.verdict s.sp .two .read = some kind) :
    rteReturn run s = .abort { kind := kind, addr := s.sp, size := .two, dir := .read } s := by
  rw [rteReturn, returnFromException, memReadHalf_rejected h]
  rfl

/-- The pop of PC cut short (spec 60 R171). -/
theorem rteReturn_rejected_pc (hsr : s.Permits s.sp .two .read)
    (h : s.cfg.policy.verdict (s.sp + 2) .four .read = some kind) :
    rteReturn run s = .abort { kind := kind, addr := s.sp + 2, size := .four, dir := .read } s := by
  simp only [rteReturn, returnFromException, memReadHalf_permitted hsr, memReadWord_rejected h, Run.andThen_ok]
  rfl

end

/-- The state in which RTE has popped its frame and written the status word (spec 60 R180). -/
def State.rteRestored (s : State) : State :=
  (s.putSP (s.regs.a[7] + 6)).setSR (s.half s.regs.a[7])

/-- RTE in supervisor mode with its frame readable (spec 60 R180). -/
theorem rte_endsInSetPC {s : State} (hsup : s.regs.s = true) (hsil : s.Silent) (hsr : s.Permits s.regs.a[7] .two .read)
    (hpc : s.Permits (s.regs.a[7] + 2) .four .read) :
    EndsInSetPC .rte .rte s s.rteRestored.regs s.rteRestored.sf s.mem (s.word (s.regs.a[7] + 2)) fixtureCost := by
  refine (operate_rte s.runner hsup hsil).trans (runHandler_congr ?_)
  rw [State.hooked_eq]
  exact rteReturn_permitted s.runner hsr hpc

/-- Settles O34: RTE ends in SetPC from its restored state. -/
theorem rteRestoresStatusAndPC : Obligations.RteRestoresStatusAndPC := by
  refine ⟨fun s hsup hobs hsr hpc => ?completes, ?rejected⟩
  case completes =>
    obtain ⟨t, ev, hdone, hmachine, hcalls⟩ := (rte_endsInSetPC hsup hobs.silent hsr hpc).completes hobs
    exact ⟨s.rteRestored, t, ev, exec_setSR _ _, hdone, hmachine, hcalls⟩
  case rejected =>
    rintro s _ hsup hsil hsr hpc rfl
    refine ⟨s.rteRestored, freeRecord s, exec_setSR _ _, fun f hval => ?_⟩
    have hfaults := (rte_endsInSetPC hsup hsil hsr hpc).faultsAt hsil hval
    rwa [State.edited, ← s.calledAll_mem] at hfaults

/-! ## RTS (PRESUMED, log 14) -/

/-- What RTS does after its port: the return address popped. -/
def rtsReturn (run : Runner) (s : State) : Run Word :=
  (memReadWord s.sp s).andThen fun pc s => (setPC run pc (s.putSP (s.sp + 4))).thenCost s.cfg.externalCost

section
variable (run : Runner) {s : State} {kind : FaultKind}

/-- RTS, its port called. -/
theorem operate_rts (hsil : s.Silent) :
    operate run .rts s = runHandler run (fun _ => rtsReturn run ((s.hooked .rts).withCtx .handler)) s :=
  runHandler_afterPort run .rts (rtsReturn run) hsil

theorem rtsReturn_permitted (h : s.Permits s.sp .four .read) :
    rtsReturn run s = (setPC run (s.word s.sp) (s.putSP (s.sp + 4))).thenCost s.cfg.externalCost := by
  rw [rtsReturn, memReadWord_permitted h, Run.andThen_ok]

/-- The pop of PC cut short (spec 60 R171). -/
theorem rtsReturn_rejected (h : s.cfg.policy.verdict s.sp .four .read = some kind) :
    rtsReturn run s = .abort { kind := kind, addr := s.sp, size := .four, dir := .read } s := by
  rw [rtsReturn, memReadWord_rejected h, Run.andThen_abort]

end

/-- RTS with its return address readable. -/
theorem rts_endsInSetPC {s : State} (hsil : s.Silent) (h : s.Permits s.regs.a[7] .four .read) :
    EndsInSetPC .rts .rts s { s.regs with a := s.regs.a.set 7 (s.regs.a[7] + 4) } s.sf s.mem (s.word s.regs.a[7])
      s.cfg.externalCost := by
  refine (operate_rts s.runner hsil).trans (runHandler_congr ?_)
  rw [State.hooked_eq]
  exact rtsReturn_permitted s.runner h

/-- Settles O36: RTS ends in SetPC from its raised stack. -/
theorem rtsCallsItsPortAndPopsPC : Obligations.RtsCallsItsPortAndPopsPC := by
  refine ⟨fun s hobs hpermits => (rts_endsInSetPC hobs.silent hpermits).completes hobs, ?rejected⟩
  rintro s _ hsil hpermits rfl
  refine ⟨freeRecord s, fun f hval => ?_⟩
  have hfaults := (rts_endsInSetPC hsil hpermits).faultsAt hsil hval
  rwa [State.edited, ← s.calledAll_mem, ← s.calledAll_sf] at hfaults

end Sys2Proof.Machine
end

section
/-! PROOF. LINK and JSR, completed or cut short (spec 40 R91, R93; 60 R171). -/

namespace Sys2Proof.Machine

/-! ## LINK (PRESUMED, log 15) -/

theorem State.putSP_sp (s : State) (sp : Word) : (s.putSP sp).sp = sp := by
  simp [State.sp]

/-- What LINK does after its port: the displacement read, An pushed and pointed at, room made. -/
def linkFrame (an : BitVec 3) (s : State) : Run Word :=
  (memReadHalf (s.regs.pc + 2) s).andThen fun d16 s =>
    let s := s.putSP (s.sp - 4)
    (memWriteWord s.sp s.regs.a[an.toFin] s).andThen fun _ s =>
      let s := s.putA an.toFin s.sp
      .ok s.cfg.externalCost ((s.putSP (s.sp + d16.signExtend 32)).putPC (s.regs.pc + 4))

section
variable {s : State} {kind : FaultKind} (an : BitVec 3)

/-- `EventLINK` ignores the replies, as the body of LINK does (spec 40 R93). -/
theorem eventLINK_andThen (run : Runner) (rest : State → Run Word) (s : State) :
    ((eventLINK run (freeRecord s) s).andThen fun _ s => rest s) = afterPort run .link rest s := by
  unfold eventLINK afterPort
  cases invokeHooks run .link (.event (freeRecord s)) s <;> rfl

/-- LINK, its port called. -/
theorem operate_link (run : Runner) (hsil : s.Silent) :
    operate run (.link an) s = runHandler run (fun _ => linkFrame an ((s.hooked .link).withCtx .handler)) s :=
  (congrArg (runHandler run · s) (funext (eventLINK_andThen run (linkFrame an)))).trans
    (runHandler_afterPort run .link (linkFrame an) hsil)

/-- The read of the displacement cut short (spec 60 R171). -/
theorem linkFrame_rejected_displacement (h : s.cfg.policy.verdict (s.regs.pc + 2) .two .read = some kind) :
    linkFrame an s = .abort { kind := kind, addr := s.regs.pc + 2, size := .two, dir := .read } s := by
  rw [linkFrame, memReadHalf_rejected h, Run.andThen_abort]

/-- The push cut short, A[7] lowered (spec 60 R171). -/
theorem linkFrame_rejected_push (hread : s.Permits (s.regs.pc + 2) .two .read)
    (h : s.cfg.policy.verdict (s.sp - 4) .four .write = some kind) :
    linkFrame an s =
      .abort { kind := kind, addr := s.sp - 4, size := .four, dir := .write } (s.putSP (s.sp - 4)) := by
  have hpush := memWriteWord_rejected (s := s.putSP (s.sp - 4)) h
  simp only [linkFrame, memReadHalf_permitted hread, Run.andThen_ok, State.putSP_sp, hpush, Run.andThen_abort]

end

/-! ## JSR (PRESUMED, log 16) -/

/-- What JSR of a control mode does after its port: the return address pushed, the target installed. -/
def jsrCall (run : Runner) (mode reg : BitVec 3) (s : State) : Run Word :=
  (controlAddress mode reg s).andThen fun t s =>
    let s := s.putSP (s.sp - 4)
    (memWriteWord s.sp t.2 s).andThen fun _ s => (setPC run t.1 s).thenCost s.cfg.externalCost

section
variable {s : State} {kind : FaultKind} {mode reg : BitVec 3} {target next : Word}

/-- JSR of a control mode, its port called. -/
theorem operate_jsr (run : Runner) (hmode : isControlMode mode reg = true) (hsil : s.Silent) :
    operate run (.jsr mode reg) s =
      runHandler run (fun _ => jsrCall run mode reg ((s.hooked .jsr).withCtx .handler)) s :=
  (if_pos hmode).trans (runHandler_afterPort run .jsr (jsrCall run mode reg) hsil)

/-- A mode with a 16-bit extension word cut short at it. -/
theorem controlAddress_rejected_half
    (hmode : mode = 5 ∨ mode = 6 ∨ (mode = 7 ∧ (reg = 0 ∨ reg = 2 ∨ reg = 3)))
    (h : s.cfg.policy.verdict (s.regs.pc + 2) .two .read = some kind) :
    controlAddress mode reg s = .abort { kind := kind, addr := s.regs.pc + 2, size := .two, dir := .read } s := by
  obtain ⟨target, haddr⟩ : ∃ target, controlAddress mode reg s = (memReadHalf (s.regs.pc + 2) s).andThen target := by
    rcases hmode with rfl | rfl | ⟨rfl, rfl | rfl | rfl⟩ <;> exact ⟨_, rfl⟩
  rw [haddr, memReadHalf_rejected h, Run.andThen_abort]

/-- The absolute long mode cut short at its 32-bit extension. -/
theorem controlAddress_rejected_word (h : s.cfg.policy.verdict (s.regs.pc + 2) .four .read = some kind) :
    controlAddress 7 1 s = .abort { kind := kind, addr := s.regs.pc + 2, size := .four, dir := .read } s := by
  obtain ⟨target, haddr⟩ : ∃ target, controlAddress 7 1 s = (memReadWord (s.regs.pc + 2) s).andThen target := ⟨_, rfl⟩
  rw [haddr, memReadWord_rejected h, Run.andThen_abort]

/-- The modes with a 16-bit extension word are control modes. -/
theorem isControlMode_of_extension (hmode : mode = 5 ∨ mode = 6 ∨ (mode = 7 ∧ (reg = 0 ∨ reg = 2 ∨ reg = 3))) :
    isControlMode mode reg = true := by
  rcases hmode with rfl | rfl | ⟨rfl, rfl | rfl | rfl⟩ <;> simp [isControlMode]

theorem jsrCall_permitted (run : Runner) (haddr : controlAddress mode reg s = .ok (target, next) s)
    (h : s.Permits (s.sp - 4) .four .write) :
    jsrCall run mode reg s =
      (setPC run target ((s.putSP (s.sp - 4)).setWord (s.sp - 4) next)).thenCost s.cfg.externalCost := by
  have hpush := memWriteWord_permitted (s := s.putSP (s.sp - 4)) h
  simp only [jsrCall, haddr, Run.andThen_ok, State.putSP_sp, hpush]
  rfl

/-- The push cut short, A[7] lowered (spec 60 R171). -/
theorem jsrCall_rejected_push (run : Runner) (haddr : controlAddress mode reg s = .ok (target, next) s)
    (h : s.cfg.policy.verdict (s.sp - 4) .four .write = some kind) :
    jsrCall run mode reg s =
      .abort { kind := kind, addr := s.sp - 4, size := .four, dir := .write } (s.putSP (s.sp - 4)) := by
  have hpush := memWriteWord_rejected (s := s.putSP (s.sp - 4)) h
  simp only [jsrCall, haddr, Run.andThen_ok, State.putSP_sp, hpush, Run.andThen_abort]

/-- The extension words cut short (spec 60 R171). -/
theorem jsrCall_rejected_address (run : Runner) {f : MemFault} (haddr : controlAddress mode reg s = .abort f s) :
    jsrCall run mode reg s = .abort f s := by
  rw [jsrCall, haddr, Run.andThen_abort]

/-- The target of a JSR is the same before and after its port. -/
theorem controlAddress_hooked (haddr : controlAddress mode reg s = .ok (target, next) s) (key : HookKey) :
    controlAddress mode reg ((s.hooked key).withCtx .handler) = .ok (target, next) ((s.hooked key).withCtx .handler) :=
  controlAddress_congr (t := (s.hooked key).withCtx .handler) (s.calledAll_regs _) (s.calledAll_cfg _)
    (s.calledAll_mem _) haddr

/-- JSR of a control mode with its extension words readable and its push permitted. -/
theorem jsr_endsInSetPC (hmode : isControlMode mode reg = true) (hsil : s.Silent)
    (haddr : controlAddress mode reg s = .ok (target, next) s) (h : s.Permits (s.regs.a[7] - 4) .four .write) :
    EndsInSetPC (.jsr mode reg) .jsr s { s.regs with a := s.regs.a.set 7 (s.regs.a[7] - 4) } s.sf
      (s.setWord (s.regs.a[7] - 4) next).mem target s.cfg.externalCost := by
  refine (operate_jsr s.runner hmode hsil).trans (runHandler_congr ?_)
  have haddr' := controlAddress_hooked haddr .jsr
  rw [State.hooked_eq] at haddr' ⊢
  exact jsrCall_permitted s.runner haddr' h

end

/-- The words of JSR lie in line 4. -/
theorem lineOf_jsrWord : ∀ mode reg : BitVec 3, lineOf (jsrWord mode reg) = 4 := by decide

/-- JSR of a mode that is no control mode is an illegal instruction. -/
theorem exec_jsr_illegal {mode reg : BitVec 3} {s s' : State} (hmode : isControlMode mode reg = false)
    (hs' : s' = { s with cyc := s.cyc + 4 }) (hcan : s'.CanTake 4) :
    ∃ t, exec (.jsr mode reg) s = .next t ∧ Takes 4 s' t := by
  have hillegal : operate s.runner (.jsr mode reg) s = illegalHandler s.runner (jsrWord mode reg) s :=
    if_neg (by simp [hmode])
  have hvector : illegalVector (jsrWord mode reg) = 4 :=
    illegalVector_other (by rw [lineOf_jsrWord]; decide) (by rw [lineOf_jsrWord]; decide)
  exact exec_illegal_takes hillegal hvector hs' hcan

/-- Settles O39: JSR ends in SetPC from its pushed return address, whose four bytes read back; any other mode is illegal. -/
theorem jsrCallsItsPortAndPushesReturn : Obligations.JsrCallsItsPortAndPushesReturn := by
  intro mode reg s
  refine ⟨fun target next hmode hobs hwf haddr hpermits => ?completes,
    fun target next hmode hsil hwf haddr hpermits => ?rejected, fun s' hmode hs' hcan => exec_jsr_illegal hmode hs' hcan⟩
  case completes =>
    obtain ⟨t, ev, hdone, hmachine, hcalls⟩ := (jsr_endsInSetPC hmode hobs.silent haddr hpermits).completes hobs
    have hmem : t.mem = (s.setWord (s.regs.a[7] - 4) next).mem := (congrArg State.mem hmachine :)
    refine ⟨t, ev, hdone, ?_, ?_, fun a hout => ?_, hcalls⟩
    · rw [hmachine, hmem]
    · rw [State.word_of_mem hmem, State.word_setWord_same hwf]
    · rw [State.byte_of_mem hmem, State.byte_setWord_other s hout]
  case rejected =>
    refine ⟨_, freeRecord s, rfl, State.setWord_wf hwf _ _, State.word_setWord_same hwf _ _,
      fun a hout => State.byte_setWord_other s hout _, fun f hval => ?_⟩
    have hfaults := (jsr_endsInSetPC hmode hsil haddr hpermits).faultsAt hsil hval
    rwa [State.edited, ← s.calledAll_sf] at hfaults

end Sys2Proof.Machine
end

section
/-! PROOF. Memory faults of the opcode handlers and of the opcode fetch (spec 60 R170, R171; 40 R82, R84). -/

namespace Sys2Proof.Machine

/-! ## MOVE.W and STOP -/

/-- What MOVE.W (xxx).L, D0 does (spec 95 section 3.1). -/
def moveWBody (s : State) : Run Word :=
  (memReadWord (s.regs.pc + 2) s).andThen fun a s =>
    (memReadHalf a (s.putPC (s.regs.pc + 6))).andThen fun v s =>
      .ok fixtureCost { s with regs := { s.regs with d := s.regs.d.set 0 (lowHalf s.regs.d[0] v) } }

/-- MOVE.W is step C of its body. -/
theorem operate_moveW (run : Runner) (s : State) : operate run .moveWAbsLD0 s = runHandler run moveWBody s := rfl

section
variable {s : State} {kind : FaultKind}

/-- The read of the address cut short (spec 60 R171). -/
theorem moveWBody_rejected_address (h : s.cfg.policy.verdict (s.regs.pc + 2) .four .read = some kind) :
    moveWBody s = .abort { kind := kind, addr := s.regs.pc + 2, size := .four, dir := .read } s := by
  rw [moveWBody, memReadWord_rejected h, Run.andThen_abort]

/-- The read of the operand cut short, PC past the instruction (spec 60 R171). -/
theorem moveWBody_rejected_operand (hread : s.Permits (s.regs.pc + 2) .four .read)
    (h : s.cfg.policy.verdict (s.word (s.regs.pc + 2)) .two .read = some kind) :
    moveWBody s = .abort { kind := kind, addr := s.word (s.regs.pc + 2), size := .two, dir := .read }
      (s.putPC (s.regs.pc + 6)) := by
  have hoperand := memReadHalf_rejected (s := s.putPC (s.regs.pc + 6)) h
  simp only [moveWBody, memReadWord_permitted hread, Run.andThen_ok, hoperand, Run.andThen_abort]

/-- The read of the immediate cut short (spec 60 R171). -/
theorem stopBody_rejected (h : s.cfg.policy.verdict (s.regs.pc + 2) .two .read = some kind) :
    stopBody s = .abort { kind := kind, addr := s.regs.pc + 2, size := .two, dir := .read } s := by
  rw [stopBody, memReadHalf_rejected h, Run.andThen_abort]

/-- The two reads of MOVE.W. -/
theorem moveW_faultsAtAccess (s : State) :
    FaultsAtAccess .moveWAbsLD0 s s (s.regs.pc + 2) .four .read ∧
      (s.Permits (s.regs.pc + 2) .four .read →
        FaultsAtAccess .moveWAbsLD0 s (s.putPC (s.regs.pc + 6)) (s.word (s.regs.pc + 2)) .two .read) :=
  ⟨fun _ h => faultsAt_of_handler (operate_moveW _ s) (moveWBody_rejected_address (s := s.withCtx .handler) h) rfl,
    fun hread _ h => faultsAt_of_handler (operate_moveW _ s)
      (moveWBody_rejected_operand (s := s.withCtx .handler) hread h) rfl⟩

/-- The immediate of STOP. -/
theorem stop_faultsAtAccess (hsup : s.regs.s = true) : FaultsAtAccess .stop s s (s.regs.pc + 2) .two .read :=
  fun _ h => faultsAt_of_handler (operate_stop_supervisor _ hsup) (stopBody_rejected (s := s.withCtx .handler) h) rfl

end

/-! ## The words with an event port -/

section
variable {s : State}

/-- The two pops of RTE. -/
theorem rte_faultsAtAccess (hsup : s.regs.s = true) (hsil : s.Silent) :
    FaultsAtAccess .rte s (s.hooked .rte) s.regs.a[7] .two .read ∧
      (s.Permits s.regs.a[7] .two .read →
        FaultsAtAccess .rte s (s.hooked .rte) (s.regs.a[7] + 2) .four .read) := by
  have hword := operate_rte s.runner hsup hsil
  refine ⟨fun kind h => faultsAt_of_handler hword ?sr (s.hooked_ctx _),
    fun hsr kind h => faultsAt_of_handler hword ?pc (s.hooked_ctx _)⟩
  case sr =>
    rw [State.hooked_eq]
    exact rteReturn_rejected_sr s.runner h
  case pc =>
    rw [State.hooked_eq]
    exact rteReturn_rejected_pc s.runner hsr h

/-- The pop of RTS. -/
theorem rts_faultsAtAccess (hsil : s.Silent) : FaultsAtAccess .rts s (s.hooked .rts) s.regs.a[7] .four .read := by
  refine fun kind h => faultsAt_of_handler (operate_rts s.runner hsil) ?_ (s.hooked_ctx _)
  rw [State.hooked_eq]
  exact rtsReturn_rejected s.runner h

/-- The displacement and the push of LINK. -/
theorem link_faultsAtAccess (an : BitVec 3) (hsil : s.Silent) :
    FaultsAtAccess (.link an) s (s.hooked .link) (s.regs.pc + 2) .two .read ∧
      (s.Permits (s.regs.pc + 2) .two .read →
        FaultsAtAccess (.link an) s
          { s.hooked .link with regs := { s.regs with a := s.regs.a.set 7 (s.regs.a[7] - 4) } }
          (s.regs.a[7] - 4) .four .write) := by
  have hword := operate_link an s.runner hsil
  refine ⟨fun kind h => faultsAt_of_handler hword ?displacement (s.hooked_ctx _),
    fun hread kind h => faultsAt_of_handler hword ?push (s.hooked_ctx _)⟩
  case displacement =>
    rw [State.hooked_eq]
    exact linkFrame_rejected_displacement an h
  case push =>
    rw [State.hooked_eq]
    exact linkFrame_rejected_push an hread h

/-- JSR of a control mode whose effective address is cut short. -/
theorem jsr_faultsAt_address {mode reg : BitVec 3} {f : MemFault} (hmode : isControlMode mode reg = true)
    (hsil : s.Silent)
    (haddr : controlAddress mode reg ((s.hooked .jsr).withCtx .handler) = .abort f ((s.hooked .jsr).withCtx .handler)) :
    FaultsAt (.jsr mode reg) s (s.hooked .jsr) f :=
  faultsAt_of_handler (operate_jsr s.runner hmode hsil) (jsrCall_rejected_address s.runner haddr) (s.hooked_ctx _)

/-- The 16-bit extension word of JSR. -/
theorem jsr_faultsAtAccess_half {mode reg : BitVec 3} (hsil : s.Silent)
    (hmode : mode = 5 ∨ mode = 6 ∨ (mode = 7 ∧ (reg = 0 ∨ reg = 2 ∨ reg = 3))) :
    FaultsAtAccess (.jsr mode reg) s (s.hooked .jsr) (s.regs.pc + 2) .two .read := by
  refine fun kind h => jsr_faultsAt_address (isControlMode_of_extension hmode) hsil ?_
  rw [State.hooked_eq]
  exact controlAddress_rejected_half hmode h

/-- The 32-bit extension of JSR (xxx).L. -/
theorem jsr_faultsAtAccess_word (hsil : s.Silent) :
    FaultsAtAccess (.jsr 7 1) s (s.hooked .jsr) (s.regs.pc + 2) .four .read := by
  refine fun kind h => jsr_faultsAt_address rfl hsil ?_
  rw [State.hooked_eq]
  exact controlAddress_rejected_word h

/-- The push of JSR. -/
theorem jsr_faultsAtAccess_push {mode reg : BitVec 3} {target next : Word} (hmode : isControlMode mode reg = true)
    (hsil : s.Silent) (haddr : controlAddress mode reg s = .ok (target, next) s) :
    FaultsAtAccess (.jsr mode reg) s
      { s.hooked .jsr with regs := { s.regs with a := s.regs.a.set 7 (s.regs.a[7] - 4) } } (s.regs.a[7] - 4) .four
      .write := by
  refine fun kind h => faultsAt_of_handler (operate_jsr s.runner hmode hsil) ?_ (s.hooked_ctx _)
  have haddr' := controlAddress_hooked haddr .jsr
  rw [State.hooked_eq] at haddr' ⊢
  exact jsrCall_rejected_push s.runner haddr' h

end

/-- Settles O32: any handler by `runHandler_faults`, each access of the default ones where its body is cut short. -/
theorem handlerFaultIsTakenAndKeepsEarlierWrites : Obligations.HandlerFaultIsTakenAndKeepsEarlierWrites := by
  refine ⟨fun run body s m f hbody hcan => runHandler_faults hbody hcan, fun s => ?_⟩
  obtain ⟨haddress, hoperand⟩ := moveW_faultsAtAccess s
  exact ⟨haddress, hoperand, stop_faultsAtAccess,
    fun hsup hsil => ⟨freeRecord s, s.hooked .rte, rfl, rte_faultsAtAccess hsup hsil⟩,
    fun hsil => ⟨freeRecord s, rts_faultsAtAccess hsil⟩,
    fun an hsil => ⟨freeRecord s, s.hooked .link, rfl, link_faultsAtAccess an hsil⟩,
    fun mode reg hsil => ⟨freeRecord s, s.hooked .jsr, rfl, jsr_faultsAtAccess_half hsil, jsr_faultsAtAccess_word hsil,
      fun target next hmode haddr => jsr_faultsAtAccess_push hmode hsil haddr⟩⟩

/-! ## The opcode fetch -/

/-- A rejected fetch is processed as a memory fault; no slot is run (spec 60 R170). -/
theorem stepBC_rejected (disp run : Runner) {s : State} {kind : FaultKind}
    (h : s.cfg.policy.verdict s.regs.pc .two .read = some kind) :
    stepBC disp run s = memoryFault run { kind := kind, addr := s.regs.pc, size := .two, dir := .read } s := by
  rw [stepBC, memReadHalf_rejected h]

/-- Settles O43: step A completes, the rejected fetch takes its exception, and the iteration goes on at step D. -/
theorem fetchFaultIsTakenAndSkipsDispatch : Obligations.FetchFaultIsTakenAndSkipsDispatch := by
  intro s s1 f rest hport hacts hquery hrejected haddr hsize hdir hcan
  obtain ⟨u, htaken, htakes⟩ := memoryFault_takes s.runner f hcan
  have hfault : f = { kind := f.kind, addr := s1.regs.pc, size := .two, dir := .read } := by
    rw [← haddr, ← hsize, ← hdir]
  have hfetch : stepBC (execRun exec) s.runner s1 = .ok () u := by
    rw [stepBC_rejected _ _ hrejected, ← hfault, htaken]
  refine ⟨u, htakes, ?_⟩
  rw [step_eq_loopStep hport, loopStep, hacts]
  simp only [iteration, stepA_of_breakQuery hquery, Run.andThen_ok, hfetch]

end Sys2Proof.Machine
end

section
/-! PROOF. Where reset is refused and where it is the double fault (spec 70 R200 to R202, 60 R172), and the host's calls
while `execute()` runs (70 R212, 41 R112). -/

namespace Sys2Proof.Machine

/-! ## Reset refused or cut short -/

/-- Where reset may not be called, it is refused (spec 70 R200). -/
theorem exec_reset_refused {s : State} (hrefuse : resetAllowed s ≠ true) (hardware : Bool) :
    exec (.reset hardware) s = .refused .resetRefused := by
  change (opReset s.runner hardware s).outcome s = _
  rw [opReset, if_neg hrefuse, Run.outcome_refused]

/-- An allowed reset that a memory fault cuts short is the double fault (spec 60 R172). -/
theorem exec_reset_doubleFault {s t : State} {hardware : Bool} {m : MemFault} (hallow : resetAllowed s = true)
    (habort : (if hardware then hardwareReset s.runner s else softReset s.runner s) = .abort m t) :
    exec (.reset hardware) s = .refused .doubleFault := by
  change (opReset s.runner hardware s).outcome s = _
  rw [opReset, if_pos hallow, habort, Run.noAbort_abort, Run.outcome_refused]

/-- A full-access read that is not let through is a memory fault, the state as before (spec 20 R44, R50). -/
theorem memReadFullWord_not_permitted {s : State} {a : Word} (h : ¬ s.PermitsFull a) :
    ∃ m, memReadFullWord a s = .abort m s := by
  obtain ⟨kind, hkind⟩ := Option.ne_none_iff_exists'.1 h
  exact ⟨_, by rw [memReadFullWord, hkind]⟩

/-- A hardware reset writes nothing where either half of the reset vector cannot be read. -/
theorem hardwareReset_not_permitted (run : Runner) {s : State}
    (h : ¬ s.PermitsFull s.cfg.romBase ∨ ¬ s.PermitsFull (s.cfg.romBase + 4)) :
    ∃ m, hardwareReset run s = .abort m s := by
  by_cases hsp : s.PermitsFull s.cfg.romBase
  · obtain ⟨m, hread⟩ := memReadFullWord_not_permitted (h.resolve_left (not_not_intro hsp))
    exact ⟨m, by rw [hardwareReset, memReadFullWord_permitted hsp, Run.andThen_ok, hread, Run.andThen_abort]⟩
  · obtain ⟨m, hread⟩ := memReadFullWord_not_permitted hsp
    exact ⟨m, by rw [hardwareReset, hread, Run.andThen_abort]⟩

/-- A hardware reset whose PC the validator rejects by a memory fault is cut short in SetPC: the table does not touch what
the validator's answer depends on. -/
theorem hardwareReset_validatorFault (run : Runner) {s : State} {m : MemFault} (hsil : s.Silent)
    (hsp : s.PermitsFull s.cfg.romBase) (hpc : s.PermitsFull (s.cfg.romBase + 4))
    (hfault : s.validatorFault s.resetPC = some m) :
    hardwareReset run s = .abort m (s.resetTable.calledAll (s.resetTable.setPCCalls s.resetPC)) := by
  have htable : s.resetTable.validatorFault s.resetPC = some m :=
    (State.validatorFault_congr (s := s) (t := s.resetTable) rfl rfl _).trans hfault
  rw [hardwareReset_permitted run hsp hpc, setPC_silent run s.resetPC (s := s.resetTable) (hsil.congr rfl),
    htable]

/-- A validation that ends in a memory fault, the validator doing nothing else. -/
theorem checkNewPC_silent_fault (run : Runner) {addr : Word} {s : State} {m : MemFault} (hsil : s.Silent)
    (hfault : (s.answer (.checkNewPC addr)).fault = some m) :
    checkNewPC run addr s = .abort m (s.called (.checkNewPC addr)) := by
  simp only [checkNewPC, envCall_quiet run _ (hsil.acts_answer _), Run.andThen_ok, hfault]

/-- Settles O55: the refusal is the negation of `resetAllowed`; each double fault is the reset cut short by the vector read,
by SetPC, or by the validation of the present PC. -/
theorem resetRefusals : Obligations.ResetRefusals := by
  refine ⟨fun hardware s hplace => exec_reset_refused ?_ hardware, fun s hnested hctx hplace => ?_⟩
  · rw [Ne, resetAllowed_iff]
    rintro ⟨hnested, hctx, hhost⟩
    rcases hplace with h | h | ⟨hacts, hsession⟩
    · exact Bool.false_ne_true (hnested.symm.trans h)
    · exact hctx h
    · exact hhost.elim hacts hsession
  · have hallow : resetAllowed s = true := (resetAllowed_iff s).2 ⟨hnested, hctx, hplace⟩
    refine ⟨fun hvector => ?_, fun m hsp hpc hsil hfault => ?_, fun m hsil hfault => ?_⟩
    · obtain ⟨m, habort⟩ := hardwareReset_not_permitted s.runner hvector
      exact exec_reset_doubleFault (hardware := true) hallow habort
    · exact exec_reset_doubleFault (hardware := true) hallow (hardwareReset_validatorFault s.runner hsil hsp hpc hfault)
    · exact exec_reset_doubleFault (hardware := false) hallow
        (checkNewPC_silent_fault s.runner (s := { s with cyc := 0, lta := none }) (hsil.congr rfl) hfault)

/-! ## The host's calls while `execute()` runs -/

/-- The calls that may come at any moment, written out (spec 70 R212). -/
theorem isAnyMoment_iff (i : Instr) :
    isAnyMoment i = true ↔ i = .setFlag .eoc ∨ i = .setFlag .brk ∨ i = .cycleCount := by
  refine ⟨fun h => ?_, by rintro (rfl | rfl | rfl) <;> rfl⟩
  unfold isAnyMoment at h
  split at h
  · exact .inl rfl
  · exact .inr (.inl rfl)
  · exact .inr (.inr rfl)
  · exact absurd h Bool.false_ne_true

/-- An outcome that counts as a completed operation is its next state. -/
theorem Run.eq_next_of_ofOutcome {s t : State} {o : Host.Outcome State Fault Refusal}
    (h : Run.ofOutcome s o = .ok () t) : o = .next t := by
  cases o with
  | next u =>
    rw [Run.ofOutcome] at h
    split at h <;> cases h
    rfl
  | fault e => cases h
  | refused e => cases h

/-- A call at the port that may come at any moment is taken, and completes as the operation does (spec 70 R212). -/
theorem step_port_anyMoment {s : State} {i : Call} {rest : List Call} (hport : s.port = i :: rest)
    (hany : isAnyMoment i.val = true) : step s = exec i.val { s with port := rest } := by
  obtain ⟨t, hrun, -⟩ := execRun_anyMoment hany { s with port := rest }
  have hexec : exec i.val { s with port := rest } = .next t := Run.eq_next_of_ofOutcome hrun
  have htaken : (portCtx s).refusesCall i.val = none := if_pos hany
  simp only [step, stepFrom, hport, htaken, hrun, hexec, Run.outcome_ok]

/-- While an activation is in progress, any other call at the port is refused as misplaced (spec 70 R212). -/
theorem step_port_misplaced {s : State} {i : Call} {rest : List Call} (hport : s.port = i :: rest) (hacts : s.acts ≠ [])
    (hany : isAnyMoment i.val ≠ true) : step s = .refused (misplaced i.val) := by
  have hrefused : (portCtx s).refusesCall i.val = some (misplaced i.val) := by
    rw [portCtx, if_neg hacts, Ctx.refusesCall, if_neg hany]
  simp only [step, stepFrom, hport, hrefused]

/-- Settles O45: the three calls are those of `isAnyMoment`, and the port takes those and refuses the rest. -/
theorem hostCallsWhileRunning : Obligations.HostCallsWhileRunning := by
  intro s i rest hport hacts
  rw [← isAnyMoment_iff]
  exact ⟨step_port_anyMoment hport, fun hany => ⟨_, step_port_misplaced hport hacts hany⟩⟩

end Sys2Proof.Machine
end

section
/-! PROOF. The blobs that `load` refuses (spec 43 R147, 30 R72; log 24): what it accepts has the length and the ranges of a
blob. -/

namespace Sys2Proof.Machine

/-! ## What a blob is read from -/

/-- The words read are the front of the bytes, four bytes each. -/
theorem takeWords_splits {n : Nat} {l rest : List Byte} {ws : List Word} (h : takeWords n l = some (ws, rest)) :
    ∃ front, l = front ++ rest ∧ front.length = 4 * n := by
  induction n generalizing l ws with
  | zero =>
    obtain ⟨-, rfl⟩ : [] = ws ∧ l = rest := by simpa [takeWords] using h
    exact ⟨[], rfl, rfl⟩
  | succ n ih =>
    match l, h with
    | b3 :: b2 :: b1 :: b0 :: tail, h =>
      rw [takeWords, Option.map_eq_some_iff] at h
      obtain ⟨⟨ws', rest'⟩, htail, heq⟩ := h
      cases heq
      obtain ⟨front, rfl, hlen⟩ := ih htail
      exact ⟨b3 :: b2 :: b1 :: b0 :: front, rfl, by simp only [List.length_cons, hlen]; omega⟩

/-- A flag byte is 0 or 1 (spec 43 R147). -/
theorem flagOfByte_le {b : Byte} {f : Bool} (h : flagOfByte b = some f) : b ≤ 1 := by
  unfold flagOfByte at h
  split at h
  next hzero => rw [hzero]; decide
  next =>
    split at h
    next hone => rw [hone]; decide
    next => cases h

/-- The greatest value of each status byte of a blob: nine flags and the mask (spec 30 R72). -/
def statusBounds : List Byte := [1, 1, 1, 1, 7, 1, 1, 1, 1, 1]

/-- Every byte of the status part but the mask is a flag (spec 30 R72). -/
theorem statusBounds_flag : ∀ j : Fin 10, j.val ≠ 4 → statusBounds[j.val]? = some 1 := by decide

end Sys2Proof.Machine

namespace Sys2Proof

open Machine

/-- The status bytes accepted are ten, each within its range (spec 43 R147). -/
theorem RegFile.withStatusBytes_bounded {r q : RegFile} {l : List Byte} (h : r.withStatusBytes l = some q) :
    List.Forall₂ (· ≤ ·) l statusBounds := by
  unfold RegFile.withStatusBytes at h
  split at h
  next =>
    split at h
    next ht1 ht0 hs hm hx hn hz hv hc =>
      split at h
      next hmask =>
        exact .cons (flagOfByte_le ht1) (.cons (flagOfByte_le ht0) (.cons (flagOfByte_le hs) (.cons (flagOfByte_le hm)
          (.cons hmask (.cons (flagOfByte_le hx) (.cons (flagOfByte_le hn) (.cons (flagOfByte_le hz)
            (.cons (flagOfByte_le hv) (.cons (flagOfByte_le hc) .nil)))))))))
      next => cases h
    next => cases h
  next => cases h

/-- The bytes accepted are those of 25 words and then the status bytes. -/
theorem RegFile.ofBlob_splits {q r : RegFile} {b : List Byte} (h : q.ofBlob b = some r) :
    ∃ front status, b = front ++ status ∧ front.length = 100 ∧ List.Forall₂ (· ≤ ·) status statusBounds := by
  unfold RegFile.ofBlob at h
  split at h
  next ws status hwords =>
    obtain ⟨front, hsplit, hlen⟩ := takeWords_splits hwords
    exact ⟨front, status, hsplit, hlen, RegFile.withStatusBytes_bounded h⟩
  next => cases h

/-- Bytes of another length than 110 are refused. -/
theorem RegFile.ofBlob_of_length {b : List Byte} (q : RegFile) (hlen : b.length ≠ 110) : q.ofBlob b = none := by
  rw [Option.eq_none_iff_forall_ne_some]
  intro r hr
  obtain ⟨front, status, rfl, hfront, hstatus⟩ := RegFile.ofBlob_splits hr
  have hten : status.length = 10 := hstatus.length_eq
  exact hlen (by rw [List.length_append, hfront, hten])

/-- Bytes with a status byte out of its range are refused. -/
theorem RegFile.ofBlob_of_byte {b : List Byte} {j : Nat} {v bound : Byte} (q : RegFile) (hbyte : b[100 + j]? = some v)
    (hbound : statusBounds[j]? = some bound) (hgt : bound < v) : q.ofBlob b = none := by
  rw [Option.eq_none_iff_forall_ne_some]
  intro r hr
  obtain ⟨front, status, rfl, hfront, hstatus⟩ := RegFile.ofBlob_splits hr
  rw [List.getElem?_append_right (by omega), hfront, Nat.add_sub_cancel_left] at hbyte
  obtain ⟨hj, rfl⟩ := List.getElem?_eq_some_iff.1 hbyte
  obtain ⟨hj', rfl⟩ := List.getElem?_eq_some_iff.1 hbound
  exact absurd (hstatus.get hj hj') (BitVec.not_le.2 hgt)

end Sys2Proof

namespace Sys2Proof.Machine

/-! ## load -/

/-- load refuses a file whose bytes are no blob (spec 43 R147). -/
theorem exec_load_badBlob {f : FileId} {s : State} {b : List Byte} (hfile : s.file f = some b)
    (hnone : s.regs.ofBlob b = none) : exec (.load f) s = .refused .badBlob := by
  have hload : opLoad s.runner f s = .refused .badBlob := by
    rw [opLoad, hfile]
    dsimp only
    rw [hnone]
  exact (exec_eq_operate _ s).trans (congrArg (Run.outcome · s) hload)

/-- load refuses a blob one of whose status bytes is put out of its range (spec 43 R147). -/
theorem exec_load_badByte {f : FileId} {s : State} {r : RegFile} {b : List Byte} {j : Nat} {v bound : Byte}
    (hshown : r.Shown b) (hbound : statusBounds[j]? = some bound) (hgt : bound < v)
    (hfile : s.file f = some (b.set (100 + j) v)) : exec (.load f) s = .refused .badBlob := by
  have hj : j < 10 := (List.getElem?_eq_some_iff.1 hbound).1
  have hset : (b.set (100 + j) v)[100 + j]? = some v :=
    List.getElem?_set_self (by rw [hshown.1]; omega)
  exact exec_load_badBlob hfile (s.regs.ofBlob_of_byte hset hbound hgt)

/-- load refuses a file that the collaborator does not hold (log 24). -/
theorem exec_load_noFile {f : FileId} {s : State} (hfile : s.file f = none) : exec (.load f) s = .refused .noFile := by
  have hload : opLoad s.runner f s = .refused .noFile := by
    rw [opLoad, hfile]
  exact (exec_eq_operate _ s).trans (congrArg (Run.outcome · s) hload)

/-- Settles O16: a status byte out of its range, a length that is none of a blob's, no file. -/
theorem loadRefusesBadBlob : Obligations.LoadRefusesBadBlob := by
  refine fun f s => ⟨fun r b k v hshown hlow hhigh hmask hgt hfile => ?flag,
    fun r b v hshown hgt hfile => exec_load_badByte hshown (j := 4) rfl hgt hfile,
    fun b hlen hfile => exec_load_badBlob hfile (s.regs.ofBlob_of_length hlen), exec_load_noFile⟩
  case flag =>
    obtain ⟨j, rfl⟩ := Nat.exists_eq_add_of_le hlow
    exact exec_load_badByte hshown (statusBounds_flag ⟨j, by omega⟩ (fun h4 => hmask (congrArg (100 + ·) h4))) hgt hfile

end Sys2Proof.Machine
end

section
/-! PROOF. The target of each control mode of JSR (spec 40 R91; PRESUMED, log 16). -/

namespace Sys2Proof.Machine

/-! ## The index of a brief extension word -/

/-- The register of a number whose top bit tells A from D (spec 10 R10, R11). -/
theorem xreg_of_number (r : RegFile) {i : Fin 16} {top : Bool} {n : BitVec 3}
    (hi : i.val = (if top then 8 else 0) + n.toNat) :
    r.xreg i = if top then r.a[n.toFin] else r.d[n.toFin] := by
  have hn : n.toNat < 8 := n.isLt
  obtain ⟨i, hlt⟩ := i
  cases top with
  | true =>
    obtain rfl : i = 8 + n.toNat := hi
    simp [RegFile.xreg]
  | false =>
    obtain rfl : i = 0 + n.toNat := hi
    simp [RegFile.xreg, hn]

/-- A four-bit number is its low three bits, from 8 on where its top bit is set. -/
theorem toNat_topBit : ∀ f : BitVec 4, f.toNat = (if f.getLsbD 3 then 8 else 0) + (f.extractLsb' 0 3).toNat := by
  decide

/-- Bits 15 to 12 of an extension word: bit 15, then bits 14 to 12. -/
theorem registerField_toNat (w : Half) :
    (w.extractLsb' 12 4).toNat = (if w.getLsbD 15 then 8 else 0) + (w.extractLsb' 12 3).toNat := by
  have htop : (w.extractLsb' 12 4).getLsbD 3 = w.getLsbD 15 := by
    rw [BitVec.getLsbD_extractLsb']
    simp
  have hlow : (w.extractLsb' 12 4).extractLsb' 0 3 = w.extractLsb' 12 3 := by
    ext i hi
    simp only [BitVec.getElem_extractLsb', BitVec.getLsbD_extractLsb']
    simp [show i < 4 by omega]
  rw [toNat_topBit, htop, hlow]

/-- The index of a brief extension word: the register that its top four bits name, and its low byte. -/
theorem briefIndex_eq {r : RegFile} {w : Half} {x index : Word}
    (hx : x = if w.getLsbD 15 then r.a[(w.extractLsb' 12 3).toFin] else r.d[(w.extractLsb' 12 3).toFin])
    (hindex : index = if w.getLsbD 11 then x else (x.extractLsb' 0 16).signExtend 32) :
    briefIndex r w = index + (w.extractLsb' 0 8).signExtend 32 := by
  have hreg : r.xreg ⟨(w.extractLsb' 12 4).toNat, (w.extractLsb' 12 4).isLt⟩ = x :=
    (xreg_of_number r (registerField_toNat w)).trans hx.symm
  rw [hindex, ← hreg]
  rfl

/-! ## The modes -/

section
variable {s : State}

/-- A mode with a 16-bit extension word, that word being readable. -/
theorem controlAddress_of_half (mode reg : BitVec 3) {target : Half → State → Word × Word}
    (hmode : controlAddress mode reg s = (memReadHalf (s.regs.pc + 2) s).andThen fun ext s => .ok (target ext s) s)
    (h : s.Permits (s.regs.pc + 2) .two .read) :
    controlAddress mode reg s = .ok (target (s.half (s.regs.pc + 2)) s) s := by
  rw [hmode, memReadHalf_permitted h, Run.andThen_ok]

/-- The absolute long mode, its 32-bit extension being readable. -/
theorem controlAddress_absoluteLong (h : s.Permits (s.regs.pc + 2) .four .read) :
    controlAddress 7 1 s = .ok (s.word (s.regs.pc + 2), s.regs.pc + 6) s := by
  have hmode : controlAddress 7 1 s =
      (memReadWord (s.regs.pc + 2) s).andThen fun a32 s' => .ok (a32, s.regs.pc + 6) s' := rfl
  rw [hmode, memReadWord_permitted h, Run.andThen_ok]

end

/-- Settles O38: the modes with a 16-bit extension word read it, the indexed ones take its index. -/
theorem jsrTargetOfEachControlMode : Obligations.JsrTargetOfEachControlMode := by
  refine fun r s => ⟨rfl, fun hhalf => ?extension, controlAddress_absoluteLong⟩
  case extension =>
    refine ⟨(controlAddress_of_half 5 r rfl hhalf :), (controlAddress_of_half 7 0 rfl hhalf :),
      (controlAddress_of_half 7 2 rfl hhalf :), ?indexed⟩
    rintro _ _ x index rfl rfl hx hindex
    rw [← briefIndex_eq hx hindex]
    exact ⟨(controlAddress_of_half 6 r rfl hhalf :), (controlAddress_of_half 7 3 rfl hhalf :)⟩

end Sys2Proof.Machine
end

section
/-! PROOF. The words MOVE.W and LINK where their accesses are permitted (spec 95 section 3.1, 40 R93; log 15). -/

namespace Sys2Proof.Machine

/-! ## MOVE.W (xxx).L, D0 -/

/-- The low half of D0 replaced. -/
def State.putD0Half (s : State) (v : Half) : State :=
  { s with regs := { s.regs with d := s.regs.d.set 0 (lowHalf s.regs.d[0] v) } }

/-- MOVE.W with both its reads permitted (spec 95 section 3.1). -/
theorem moveWBody_permitted {s : State} (haddress : s.Permits (s.regs.pc + 2) .four .read)
    (hoperand : s.Permits (s.word (s.regs.pc + 2)) .two .read) :
    moveWBody s =
      .ok fixtureCost ((s.putPC (s.regs.pc + 6)).putD0Half (s.half (s.word (s.regs.pc + 2)))) := by
  have hread := memReadHalf_permitted (s := s.putPC (s.regs.pc + 6)) hoperand
  rw [moveWBody, memReadWord_permitted haddress, Run.andThen_ok, hread, Run.andThen_ok]
  rfl

/-- Settles O31: both reads of MOVE.W are permitted, so its body completes. -/
theorem moveWordLoadsLowHalfOfD0 : Obligations.MoveWordLoadsLowHalfOfD0 := fun s haddress hoperand =>
  exec_of_handler (m := (s.putPC (s.regs.pc + 6)).putD0Half (s.half (s.word (s.regs.pc + 2))))
    (operate_moveW s.runner s) (moveWBody_permitted (s := s.withCtx .handler) haddress hoperand) rfl

/-! ## LINK (PRESUMED, log 15) -/

/-- The registers of LINK: An points at the pushed value, A[7] is moved from there (log 15). -/
def linkRegs (r : RegFile) (an : BitVec 3) (d16 : Half) : RegFile :=
  { r with
    pc := r.pc + 4
    a := (r.a.set an.toNat (r.a[7] - 4) an.isLt).set 7 (r.a[7] - 4 + d16.signExtend 32) }

/-- What LINK pushes: An, which for A[7] is already lowered (log 15). -/
def linkPushed (r : RegFile) (an : BitVec 3) : Word :=
  if an = 7 then r.a[7] - 4 else r.a[an.toFin]

/-- An as the push of LINK finds it. -/
theorem getElem_loweredStack (r : RegFile) (an : BitVec 3) :
    (r.a.set 7 (r.a[7] - 4))[an.toFin] = linkPushed r an := by
  have hsp : 7 = an.toNat ↔ an = 7 := by bv_omega
  simp [linkPushed, Vector.getElem_set, hsp]

/-- A[7] as LINK leaves it, whether or not it was lowered before. -/
theorem set_loweredStack (a : Vector Word 8) (an : BitVec 3) (w v : Word) :
    ((a.set 7 w).set an.toNat w an.isLt).set 7 v = (a.set an.toNat w an.isLt).set 7 v := by
  ext i hi
  by_cases hsp : 7 = i <;> simp [Vector.getElem_set, hsp]

/-- A register that takes the value of A[7] leaves A[7] alone. -/
theorem State.putA_sp {s : State} {w : Word} (h : s.sp = w) (n : Fin 8) : (s.putA n w).sp = w := by
  rw [State.sp] at h
  simp [State.sp, Vector.getElem_set, h]

/-- LINK with its read and its push permitted, its port called. -/
theorem linkFrame_permitted {s : State} (an : BitVec 3) (hread : s.Permits (s.regs.pc + 2) .two .read)
    (h : s.Permits (s.sp - 4) .four .write) :
    linkFrame an s = .ok s.cfg.externalCost
      (s.edited (linkRegs s.regs an (s.half (s.regs.pc + 2))) s.sf
        (s.setWord (s.sp - 4) (linkPushed s.regs an)).mem) := by
  have hpush := memWriteWord_permitted (s := s.putSP (s.sp - 4)) h
  have hlowered (v : Word) : ((s.putSP (s.sp - 4)).setWord (s.sp - 4) v).sp = s.sp - 4 := State.putSP_sp s _
  have hpushed : (s.putSP (s.sp - 4)).regs.a[an.toFin] = linkPushed s.regs an := getElem_loweredStack s.regs an
  simp only [linkFrame, memReadHalf_permitted hread, Run.andThen_ok, State.putSP_sp, hpushed, hpush, hlowered,
    State.putA_sp (hlowered _)]
  rw [linkRegs, ← set_loweredStack]
  rfl

/-- Settles O37: LINK completes from its port with its frame made; the four bytes pushed read back. -/
theorem linkCallsItsPortAndMakesFrame : Obligations.LinkCallsItsPortAndMakesFrame := by
  intro an s hobs hwf hread hpermits
  have hbody : linkFrame an ((s.hooked .link).withCtx .handler) = .ok s.cfg.externalCost
      (((s.hooked .link).edited (linkRegs s.regs an (s.half (s.regs.pc + 2))) s.sf
        (s.setWord (s.regs.a[7] - 4) (linkPushed s.regs an)).mem).withCtx .handler) := by
    rw [State.hooked_eq]
    exact linkFrame_permitted an hread hpermits
  have hdone := exec_of_handler (operate_link an s.runner hobs.silent) hbody (s.hooked_ctx .link)
  refine ⟨_, freeRecord s, hdone, ?machine, ?pushed, fun a hout => State.byte_setWord_other s hout _,
    s.calledAll_calls _⟩
  case machine =>
    rw [State.hooked_eq]
    rfl
  case pushed =>
    exact State.word_setWord_same hwf _ _

end Sys2Proof.Machine
end
